-- ==== Sys2Proof/Word.lean ====
section
/-! DEFINITION. The widths of the block (00_scope.md R9, R11): bytes, 32-bit words, 4-bit chip masks, the four byte
lanes, and a record that holds one thing per lane. -/

namespace Sys2Proof

/-- One byte of the host link, and what one chip sees of a bus cycle (`LANE_BITS` = 8). -/
abbrev Byte := BitVec 8

/-- The data of one bus cycle (`WORD_BITS` = 32); shared addresses and scalar fields have the same width (R11, R104). -/
abbrev Word := BitVec 32

/-- A ChipMask: bit `i` selects lane `i` (R11; 90_conflicts.md C1). -/
abbrev Mask := BitVec 4

/-- Lane number, 0 to 3; lane `L` is bits `[8L+7:8L]` of a word (R11). -/
abbrev Lane := Fin 4

/-- One value per lane (`NUM_CHIPS` = 4). -/
structure Lanes (α : Type) where
  l0 : α
  l1 : α
  l2 : α
  l3 : α
deriving DecidableEq, Repr

/-- The value of one lane. -/
def Lanes.get {α : Type} (x : Lanes α) : Lane → α
  | 0 => x.l0
  | 1 => x.l1
  | 2 => x.l2
  | 3 => x.l3

/-- Replace the value of one lane. -/
def Lanes.set {α : Type} (x : Lanes α) (v : α) : Lane → Lanes α
  | 0 => { x with l0 := v }
  | 1 => { x with l1 := v }
  | 2 => { x with l2 := v }
  | 3 => { x with l3 := v }

/-- Apply a function to every lane, each knowing its own number. -/
def Lanes.map {α β : Type} (f : Lane → α → β) (x : Lanes α) : Lanes β :=
  { l0 := f 0 x.l0, l1 := f 1 x.l1, l2 := f 2 x.l2, l3 := f 3 x.l3 }

/-- The same value on every lane. -/
def Lanes.same {α : Type} (v : α) : Lanes α := { l0 := v, l1 := v, l2 := v, l3 := v }

/-- Does something hold of every lane? -/
def Lanes.all {α : Type} (p : α → Bool) (x : Lanes α) : Bool := p x.l0 && p x.l1 && p x.l2 && p x.l3

end Sys2Proof
end

