-- ==== Sys2Proof/Machine/Memory.lean ====
section
/-! DEFINITION. The content array of one chip (10_state.md R46): a list of (address, byte) pairs in one canonical form,
strictly rising and listing no blank byte; an unlisted address reads as `blankByte`. -/

namespace Sys2Proof.Machine

/-- The content of one chip, sparse. -/
abbrev Memory := List Host.Cell

/-- What an unlisted address holds: the erased value, all bits set. `INIT_CONTENT` is OPEN in 00_scope.md R9 and
93_implementation_defined.md U12; that reset content is all erased is the value suggested there (DESIGN CHOICE, unsafe;
log 7). -/
def blankByte : Byte := 0xFF

/-- The byte at an address. -/
def Memory.read : Memory → Nat → Byte
  | [], _ => blankByte
  | (k, v) :: rest, a => if k = a then v else Memory.read rest a

/-- Put a cell in front of a list, unless it is blank. -/
def Memory.consCell (a : Nat) (b : Byte) (m : Memory) : Memory := if b = blankByte then m else (a, b) :: m

/-- Store a byte at an address, keeping the canonical form. -/
def Memory.write : Memory → Nat → Byte → Memory
  | [], a, b => Memory.consCell a b []
  | (k, v) :: rest, a, b =>
    if a < k then Memory.consCell a b ((k, v) :: rest)
    else if a = k then Memory.consCell a b rest
    else (k, v) :: Memory.write rest a b

/-- Set every byte of `[lo, hi)` to the erased value (42_chip_model.md R278, R284 (3)). -/
def Memory.eraseRange (m : Memory) (lo hi : Nat) : Memory := m.filter (fun c => !(lo ≤ c.1 && c.1 < hi))

/-- The erased array (42_chip_model.md R277, chip erase). -/
def Memory.erased : Memory := []

/-- The canonical form: addresses strictly rising, all below the capacity, no cell blank. -/
abbrev Memory.wf (cap : Nat) (m : Memory) : Prop :=
  m.Pairwise (fun x y => x.1 < y.1) ∧ ∀ c ∈ m, c.2 ≠ blankByte ∧ c.1 < cap

end Sys2Proof.Machine
end

