-- ==== Sys2Proof/Config.lean ====
section
/-! DEFINITION. What an implementation fixes: the parameter record of 00_scope.md R6 and R9, the two chip families, the
types of the environment's free draws, and the uninterpreted constants that stand for values no source gives. The
default VALUES of the parameters are in Machine/Parameters.lean. -/

namespace Sys2Proof

/-- The two chip families (00_scope.md R3). -/
inductive Family
  | familyA
  | familyB
deriving DecidableEq, Repr, Inhabited

/-- `algorithmState` of a chip-model instance: the source's nine values and the two this spec adds
(10_state.md R40, R45, R47). `waitingForCommand` is the spec's `M.WaitingForCommand`. -/
inductive AlgState
  | reading
  | unlocking
  | waitingForCommand
  | softwareId
  | programmingByte
  | eraseUnlocking1
  | eraseUnlocking2
  | eraseWaitingForCommand
  | readingStatus
  | unlockBypass
  | bypassReset
deriving DecidableEq, Repr, Inhabited

/-- `busy`: status reads still to be answered as busy, a natural number or infinity (10_state.md R47). -/
inductive Busy
  | reads (n : Nat)
  | forever
deriving DecidableEq, Repr, Inhabited

/-- Host command codes (30_encoding.md R101). -/
structure CommandCodes where
  enterIdle : Byte
  electricalTest : Byte
  identify : Byte
  readByte : Byte
  readChips : Byte
  eraseChips : Byte
  writeChips : Byte
  getBootloaderState : Byte
  enterBootloader : Byte
  enterProgrammer : Byte
  selectFamilyA : Byte
  selectFamilyB : Byte
  enableVerify : Byte
  disableVerify : Byte
  erasePortion : Byte
  writeChipsAt : Byte
  readChipsAt : Byte
  setChipMask : Byte
deriving DecidableEq, Repr

/-- Host acknowledgement and write-control codes (30_encoding.md R105, R106). -/
structure AckCodes where
  readOK : Byte
  readCancel : Byte
  writeMore : Byte
  writeFinish : Byte
  writeCancel : Byte
deriving DecidableEq, Repr

/-- Reply codes (30_encoding.md R110 to R116). -/
structure ReplyCodes where
  ok : Byte
  error : Byte
  invalid : Byte
  identifyDone : Byte
  electricalTestFail : Byte
  electricalTestDone : Byte
  readOK : Byte
  readError : Byte
  readMoreData : Byte
  readFinished : Byte
  readConfirmCancel : Byte
  writeOK : Byte
  writeError : Byte
  writeConfirmCancel : Byte
  /-- The base of `ProgrammerWriteVerificationError`, or-ed with the reversed failure mask (R114). -/
  writeVerifyError : Byte
  erasePortionOK : Byte
  erasePortionError : Byte
  erasePortionFinished : Byte
  bootloaderInBootloader : Byte
  bootloaderInProgrammer : Byte
deriving DecidableEq, Repr

/-- The parameters of the block (00_scope.md R9). The unlock addresses are held as the one byte that is replicated,
and the others, like `KEY2`, are complements, so that the constraints R9 puts on them hold by construction (DEDUCED, safe;
log 19). `MFR_ADDR` and the sizes the source states are no parameters: they stand in Machine/Parameters.lean. -/
structure Config where
  /-- `CAP(FamilyA)`, per-chip bytes. -/
  capA : Nat
  /-- `CAP(FamilyB)`, per-chip bytes. -/
  capB : Nat
  /-- `MAX_CHIP_SIZE`, per-chip bytes. -/
  maxChipSize : Nat
  /-- `ADDR_LINES`. -/
  addrLines : Nat
  /-- `ERASE_GRANULE`, combined bytes. -/
  eraseGranule : Nat
  /-- `UA1(FamilyA)` is this byte replicated; `UA2(FamilyA)` and `UA1(FamilyB)` are its complement. -/
  unlockByte : Byte
  /-- `KEY1`; `KEY2` is its complement. -/
  key1 : Word
  /-- `STATUS_ADDR`. -/
  statusAddr : Word
  /-- `DEV_ADDR(FamilyA)`. -/
  devAddrA : Word
  /-- `DEV_ADDR(FamilyB)`. -/
  devAddrB : Word
  /-- `ID_EXIT_ADDR`. -/
  idExitAddr : Word
  /-- `MAX_POLLS`, counting read cycles; `none` is infinity. -/
  maxPolls : Option Nat
  /-- `UMASK(FamilyA)`. -/
  umaskA : Word
  /-- `UMASK(FamilyB)`. -/
  umaskB : Word
  /-- `CHIPMASK_RESET`. -/
  chipMaskReset : Mask
  /-- `VERIFY_RESET`. -/
  verifyReset : Bool
  command : CommandCodes
  ack : AckCodes
  reply : ReplyCodes
deriving DecidableEq, Repr

/-- What the electrical-test routine may leave of one chip: any chip-model state (93_implementation_defined.md U8).
MODEL's own record of a draw. -/
structure ChipTouch where
  algState : AlgState
  softwareIdActive : Bool
  bypassActive : Bool
  batchOpen : Bool
  busy : Busy
  toggle : Bool
  content : List Host.Cell
deriving DecidableEq, Repr, Inhabited

/-- One run of the out-of-scope electrical-test routine: the finite list of index pairs it reports
(41_protocol_dispatcher.md R201), and what it leaves of the four chips; `none` is the routine that touches no pin
(93_implementation_defined.md U8, U14). -/
structure ElectricalResult where
  fails : List (Byte × Byte)
  touched : Option (Lanes ChipTouch)
deriving DecidableEq, Repr, Inhabited

/-- The result of the `n`-th electrical test that the harness supplied no result for: nothing constrains it
(93_implementation_defined.md U8, U14: any value; log 10). -/
opaque Config.electricalTest : Nat → ElectricalResult

end Sys2Proof
end

