-- ==== Sys2Proof/Machine/Bits.lean ====
section
/-! DEFINITION. The helper functions of 00_scope.md R12: lanes and masks of a word, the packing of link bytes, the bit
reversal of a mask, and the little-endian assembly of scalar fields (10_state.md R23). -/

namespace Sys2Proof

/-- `lane(w, L) = w[8L+7:8L]` (00_scope.md R11). -/
def lane (w : Word) (l : Lane) : Byte := w.extractLsb' (8 * l.val) 8

/-- The word whose lane `L` is the byte of lane `L`. -/
def wordOf (x : Lanes Byte) : Word :=
  x.l0.setWidth 32 ||| x.l1.setWidth 32 <<< 8 ||| x.l2.setWidth 32 <<< 16 ||| x.l3.setWidth 32 <<< 24

/-- `rep(b)`: the byte on every lane (00_scope.md R12). -/
def rep (b : Byte) : Word := wordOf (Lanes.same b)

/-- One lane of `LM(m)`. -/
def maskByte (m : Mask) (l : Lane) : Byte := if m.getLsbD l.val then 0xFF else 0x00

/-- `LM(m)`: lane `L` is 0xFF if `m[L] = 1` and 0x00 otherwise (00_scope.md R12). -/
def laneMask (m : Mask) : Word :=
  wordOf { l0 := maskByte m 0, l1 := maskByte m 1, l2 := maskByte m 2, l3 := maskByte m 3 }

/-- `cmd(b, m) = rep(b) & LM(m)` (30_encoding.md R120). -/
def cmdWord (b : Byte) (m : Mask) : Word := rep b &&& laneMask m

/-- The mask whose bit `L` is `f L`. -/
def maskOf (f : Lane → Bool) : Mask :=
  (BitVec.ofBool (f 0)).setWidth 4 ||| (BitVec.ofBool (f 1)).setWidth 4 <<< 1 |||
    (BitVec.ofBool (f 2)).setWidth 4 <<< 2 ||| (BitVec.ofBool (f 3)).setWidth 4 <<< 3

/-- `rev4(m)`: bit `i` of the result is bit `3 - i` of `m` (00_scope.md R12). -/
def rev4 (m : Mask) : Mask := maskOf (fun l => m.getLsbD (3 - l.val))

/-- `pack(b0, b1, b2, b3)`: the first byte on the link is lane 3 (00_scope.md R12; 20_memory.md R68). -/
def pack (b0 b1 b2 b3 : Byte) : Word := wordOf { l3 := b0, l2 := b1, l1 := b2, l0 := b3 }

/-- `unpack(w)`, lane 3 first (00_scope.md R12). -/
def unpack (w : Word) : List Byte := [lane w 3, lane w 2, lane w 1, lane w 0]

/-- The words of a chunk, four link bytes each, in order (20_memory.md R68). -/
def packWords : List Byte → List Word
  | b0 :: b1 :: b2 :: b3 :: rest => pack b0 b1 b2 b3 :: packWords rest
  | _ => []

/-- The link bytes of a list of words, in order (20_memory.md R68). -/
def unpackWords (ws : List Word) : List Byte := ws.flatMap unpack

/-- Byte number `n` of a little-endian field is or-ed into bits `[8n+7:8n]` of its accumulator (10_state.md R23). -/
def accumulate (acc : Word) (b : Byte) (n : Nat) : Word := acc ||| (b.setWidth 32 <<< (8 * n))

/-- `le32(b0, b1, b2, b3)`, the first byte least significant (00_scope.md R12). -/
def le32 (b0 b1 b2 b3 : Byte) : Word := wordOf { l0 := b0, l1 := b1, l2 := b2, l3 := b3 }

end Sys2Proof
end

