-- ==== Sys2Proof/Machine/Parameters.lean ====
section
/-! DEFINITION. The default values of the parameters (00_scope.md R9; 30_encoding.md R101, R105, R106, R110 to R116),
the family-dependent constants of 10_state.md R30, the constraints R9 puts on a configuration, and the address
predicates of the chip model (42_chip_model.md R270). -/

namespace Sys2Proof

/-- The default command codes (30_encoding.md R101). -/
def defaultCommands : CommandCodes :=
  { enterIdle := 0x00, electricalTest := 0x01, identify := 0x02, readByte := 0x03, readChips := 0x04,
    eraseChips := 0x05, writeChips := 0x06, getBootloaderState := 0x07, enterBootloader := 0x08,
    enterProgrammer := 0x09, selectFamilyA := 0x0B, selectFamilyB := 0x0C, enableVerify := 0x0D,
    disableVerify := 0x0E, erasePortion := 0x0F, writeChipsAt := 0x10, readChipsAt := 0x11, setChipMask := 0x12 }

/-- The default acknowledgement and control codes (30_encoding.md R105, R106). -/
def defaultAcks : AckCodes :=
  { readOK := 0x00, readCancel := 0x01, writeMore := 0x00, writeFinish := 0x01, writeCancel := 0x02 }

/-- The default reply codes (30_encoding.md R110 to R116). -/
def defaultReplies : ReplyCodes :=
  { ok := 0x00, error := 0x01, invalid := 0x02, identifyDone := 0x00, electricalTestFail := 0x00,
    electricalTestDone := 0x01, readOK := 0x00, readError := 0x01, readMoreData := 0x02, readFinished := 0x03,
    readConfirmCancel := 0x04, writeOK := 0x00, writeError := 0x01, writeConfirmCancel := 0x02,
    writeVerifyError := 0x80, erasePortionOK := 0x00, erasePortionError := 0x01, erasePortionFinished := 0x02,
    bootloaderInBootloader := 0x00, bootloaderInProgrammer := 0x01 }

/-- The default configuration (00_scope.md R9). -/
def Config.standard : Config :=
  { capA := 0x80000, capB := 0x200000, maxChipSize := 0x200000, addrLines := 21, eraseGranule := 0x40000,
    unlockByte := 0x55, key1 := 0xAAAAAAAA, statusAddr := 0, devAddrA := 1, devAddrB := 2,
    idExitAddr := 0, maxPolls := none, umaskA := 0x7FFF, umaskB := 0xFFF, chipMaskReset := 0b1111,
    verifyReset := false, command := defaultCommands, ack := defaultAcks, reply := defaultReplies }

/-- `MODEL_MFR(FamilyA)` (42_chip_model.md R291). -/
def modelMfrA : Byte := 0xBF

/-- `MODEL_DEV(FamilyA)` (42_chip_model.md R291). -/
def modelDevA : Byte := 0xB7

/-- `CHUNK_BYTES` (00_scope.md R9). -/
def chunkBytes : Nat := 1024

/-- `CHUNK_WORDS` (00_scope.md R9). -/
def chunkWords : Nat := 256

/-- `MFR_ADDR`, the same for every block (00_scope.md R9, "source: address 0"; 20_memory.md R72). -/
def mfrAddr : Word := 0

/-- `SS(F)`, the native sector size in per-chip bytes (00_scope.md R9; 10_state.md R30). -/
def sectorSize : Family → Nat
  | .familyA => 0x1000
  | .familyB => 0x10000

/-- `CAP(F)` (00_scope.md R9). -/
def Config.cap (cfg : Config) : Family → Nat
  | .familyA => cfg.capA
  | .familyB => cfg.capB

/-- `DEV_ADDR(F)` (00_scope.md R9). -/
def Config.devAddr (cfg : Config) : Family → Word
  | .familyA => cfg.devAddrA
  | .familyB => cfg.devAddrB

/-- `UMASK(F)` (00_scope.md R9). -/
def Config.umask (cfg : Config) : Family → Word
  | .familyA => cfg.umaskA
  | .familyB => cfg.umaskB

/-- `UA1(F)`: a replicated byte, FamilyB's bit-inverted relative to FamilyA's (00_scope.md R9). -/
def Config.ua1 (cfg : Config) : Family → Word
  | .familyA => rep cfg.unlockByte
  | .familyB => ~~~ rep cfg.unlockByte

/-- `UA2(F) = ~UA1(F)` (00_scope.md R9). -/
def Config.ua2 (cfg : Config) (f : Family) : Word := ~~~ cfg.ua1 f

/-- `KEY2 = ~KEY1` (00_scope.md R9; 90_conflicts.md C2). -/
def Config.key2 (cfg : Config) : Word := ~~~ cfg.key1

/-- `k1`, the byte of `KEY1` on a lane (42_chip_model.md R270; 30_encoding.md R120). DEDUCED: each chip compares with the
byte of its own lane (log 19). -/
def Config.k1 (cfg : Config) (l : Lane) : Byte := lane cfg.key1 l

/-- `k2`, the byte of `KEY2` on a lane (42_chip_model.md R270; 30_encoding.md R120; log 19). -/
def Config.k2 (cfg : Config) (l : Lane) : Byte := lane cfg.key2 l

/-- What the chips see of a shared address: `a mod 2^ADDR_LINES` (20_memory.md R61). -/
def Config.busAddr (cfg : Config) (a : Word) : Word := BitVec.ofNat 32 (a.toNat % 2 ^ cfg.addrLines)

/-- `match1(a)` (42_chip_model.md R270). -/
def Config.match1 (cfg : Config) (f : Family) (a : Word) : Bool := (a &&& cfg.umask f) == (cfg.ua1 f &&& cfg.umask f)

/-- `match2(a)` (42_chip_model.md R270). -/
def Config.match2 (cfg : Config) (f : Family) (a : Word) : Bool := (a &&& cfg.umask f) == (cfg.ua2 f &&& cfg.umask f)

/-- The command codes as a list, in the order of the table of 30_encoding.md R101. -/
def CommandCodes.toList (c : CommandCodes) : List Byte :=
  [c.enterIdle, c.electricalTest, c.identify, c.readByte, c.readChips, c.eraseChips, c.writeChips,
   c.getBootloaderState, c.enterBootloader, c.enterProgrammer, c.selectFamilyA, c.selectFamilyB, c.enableVerify,
   c.disableVerify, c.erasePortion, c.writeChipsAt, c.readChipsAt, c.setChipMask]

/-- Within each set of host codes expected in one protocol state no code stands twice (00_scope.md R9, last constraint). -/
abbrev Config.codesDistinct (cfg : Config) : Prop :=
  cfg.command.toList.Nodup ∧ [cfg.ack.readOK, cfg.ack.readCancel].Nodup ∧
    [cfg.ack.writeMore, cfg.ack.writeFinish, cfg.ack.writeCancel].Nodup

/-- The byte `ProgrammerWriteVerificationError` with the reversed failure mask or-ed in (30_encoding.md R114). -/
def ReplyCodes.verifyByte (r : ReplyCodes) (failMask : Mask) : Byte := r.writeVerifyError ||| (rev4 failMask).setWidth 8

/-- The failure masks a verify reply can carry: all but the empty one (41_protocol_dispatcher.md R234). -/
def failureMasks : List Mask := [1, 2, 3, 4, 5, 6, 7, 8, 9, 10, 11, 12, 13, 14, 15]

/-- Within each set of replies expected at one point of the protocol no code stands twice (00_scope.md R9, last constraint;
30_encoding.md R110 to R116). Which replies stand together is DEDUCED (log 33): the answers to a command byte; an entry
or the end of an electrical test; the bootloader state; the answers to a read length; to a read acknowledgement; in a write
transaction, every verify byte among them; in an erase-portion transaction. -/
abbrev Config.repliesDistinct (cfg : Config) : Prop :=
  [cfg.reply.ok, cfg.reply.error, cfg.reply.invalid].Nodup ∧
  [cfg.reply.electricalTestFail, cfg.reply.electricalTestDone].Nodup ∧
  [cfg.reply.bootloaderInBootloader, cfg.reply.bootloaderInProgrammer].Nodup ∧
  [cfg.reply.readOK, cfg.reply.readError].Nodup ∧
  [cfg.reply.readMoreData, cfg.reply.readFinished, cfg.reply.readConfirmCancel].Nodup ∧
  ([cfg.reply.writeOK, cfg.reply.writeError, cfg.reply.writeConfirmCancel] ++
    failureMasks.map cfg.reply.verifyByte).Nodup ∧
  [cfg.reply.erasePortionOK, cfg.reply.erasePortionError, cfg.reply.erasePortionFinished].Nodup

/-- The constraints a configuration must meet (00_scope.md R9), those that do not hold by construction; that a
capacity is not zero is DEDUCED (a chip holds at least one sector). -/
abbrev Config.wf (cfg : Config) : Prop :=
  0 < cfg.capA ∧ 0 < cfg.capB ∧
  (cfg.eraseGranule / 4) % sectorSize .familyA = 0 ∧ (cfg.eraseGranule / 4) % sectorSize .familyB = 0 ∧
  sectorSize .familyA ≤ cfg.eraseGranule / 4 ∧ sectorSize .familyB ≤ cfg.eraseGranule / 4 ∧
  cfg.eraseGranule % 4 = 0 ∧
  cfg.capA % sectorSize .familyA = 0 ∧ cfg.capB % sectorSize .familyB = 0 ∧
  cfg.capA % chunkWords = 0 ∧ cfg.capB % chunkWords = 0 ∧
  cfg.maxChipSize % chunkWords = 0 ∧ cfg.capA ≤ cfg.maxChipSize ∧ cfg.capB ≤ cfg.maxChipSize ∧
  cfg.codesDistinct ∧ cfg.repliesDistinct

end Sys2Proof
end

