-- ==== Sys2Proof/Syntax.lean ====
section
/-! DEFINITION. The syntax: the dispatcher's control states, the instructions (one constructor per row of
spec/opcode_table.json), and the context that decides which row a byte is (30_encoding.md R100, R118, R122). -/

namespace Sys2Proof

/-- `S.state`, the dispatcher's control state: the source's eight values and `HandedOff` (10_state.md R21). -/
inductive ControlState
  | waitingForCommand
  | readingChipsReadStartPos
  | readingChipsReadLength
  | readingChips
  | writingChipsReadingStartPos
  | writingChips
  | erasePortionReadingPosLength
  | readingChipsMask
  | handedOff
deriving DecidableEq, Repr

/-- One constructor per row of the opcode table. A host row is one byte of RX; its operand, where it has one, is that
byte. A JC row is one lane's byte of a bus write cycle as the chip on that lane decodes it: its operands are the
lane, the address (as the chips see it) and, where the row leaves it free, the byte. -/
inductive Instr
  -- command bytes (30_encoding.md R101)
  | enterIdle
  | electricalTest
  | identify
  | readByte
  | readChips
  | eraseChips
  | writeChips
  | getBootloaderState
  | enterBootloader
  | enterProgrammer
  | selectFamilyA
  | selectFamilyB
  | enableVerify
  | disableVerify
  | erasePortion
  | writeChipsAt
  | readChipsAt
  | setChipMask
  | unassigned0A
  | unassignedDefault (opcode : Byte)
  -- field, mask and body bytes (30_encoding.md R104, R107, R108)
  | fieldReadStart (data : Byte)
  | fieldReadLength (data : Byte)
  | fieldWriteStart (data : Byte)
  | fieldErasePosLen (data : Byte)
  | maskByte (data : Byte)
  | chunkBodyByte (data : Byte)
  -- acknowledgement and control bytes (30_encoding.md R105, R106)
  | computerReadOK
  | computerReadCancel
  | readAckOther (data : Byte)
  | computerWriteMore
  | computerWriteFinish
  | computerWriteCancel
  | writeCtlOther (data : Byte)
  -- flash command cycles, one lane (30_encoding.md R120 to R122; 42_chip_model.md R271 to R281)
  | jcUnlock1 (lane : Lane) (addr : Word)
  | jcResetF0 (lane : Lane) (addr : Word)
  | jcUnlock2 (lane : Lane) (addr : Word)
  | jcSoftwareId (lane : Lane) (addr : Word)
  | jcProgram (lane : Lane) (addr : Word)
  | jcEraseSetup (lane : Lane) (addr : Word)
  | jcBypassEnter (lane : Lane) (addr : Word)
  | jcResetF0Cmd (lane : Lane) (addr : Word)
  | jcProgramData (lane : Lane) (addr : Word) (data : Byte)
  | jcEraseUnlock1 (lane : Lane) (addr : Word)
  | jcEraseUnlock2 (lane : Lane) (addr : Word)
  | jcChipErase (lane : Lane) (addr : Word)
  | jcSectorErase (lane : Lane) (addr : Word)
  | jcSectorEraseMore (lane : Lane) (addr : Word)
  | jcBypassProgram (lane : Lane) (addr : Word)
  | jcBypassReset1 (lane : Lane) (addr : Word)
  | jcBypassReset2 (lane : Lane) (addr : Word)
  | jcOther (lane : Lane) (addr : Word) (data : Byte)
deriving DecidableEq, Repr

/-- What decides which row a byte is: for a host byte the control state and whether a write body is being drained
(30_encoding.md R100); for a lane's byte the lane, the state of the chip on it and the address (R122). -/
inductive Ctx
  | host (control : ControlState) (inBody : Bool)
  | lane (lane : Lane) (family : Family) (state : AlgState) (batchOpen : Bool) (addr : Word)
deriving DecidableEq, Repr

end Sys2Proof
end

