-- ==== Sys2Proof/Machine/State.lean ====
section
/-! DEFINITION. The state of the machine as plain data: the dispatcher's session, the family register, the two link
streams, four chip-model instances (10_state.md R20 to R50), the environment's pending draws, and the model's own
fields; the reasons a step can stop; and the state after reset (10_state.md R50). -/

namespace Sys2Proof.Machine

/-- What a lane reads as where the spec gives it no byte: an undriven lane (93_implementation_defined.md U7) and an
identity address other than the two named ones (U9). A free value in three parts, every one of them free: the bytes
the next read cycles bring, one each; the level it has now, which stays once those are used up; and whether it then
stays at all, or differs from one read cycle to the next for ever (20_memory.md R66: "a lane that never reads the same
twice"). MODEL's own field (log 11). -/
structure Noise where
  upcoming : List Byte
  now : Byte
  restless : Bool
deriving DecidableEq, Repr

/-- One socket and the chip-model instance in it (10_state.md R40 to R47). -/
structure Chip where
  /-- Is there a chip in the socket? MODEL's own field; false is the "empty socket" of 20_memory.md R62 (log 8). -/
  fitted : Bool
  /-- The grammar this instance plays; fixed (10_state.md R40; 42_chip_model.md R260). -/
  family : Family
  /-- The manufacturer byte it answers, `MODEL_MFR` (42_chip_model.md R290; log 22). -/
  mfrId : Byte
  /-- The device byte it answers, `MODEL_DEV` (42_chip_model.md R290; log 22). -/
  devId : Byte
  csAsserted : Bool
  oeAsserted : Bool
  weAsserted : Bool
  /-- The present level of the address lines (42_chip_model.md R261). -/
  addr : Word
  /-- The present level of the lane's data lines as the bus drives them; `none` is `Z` (42_chip_model.md R261). -/
  din : Option Byte
  /-- The address latched when the write window opened (10_state.md R42). -/
  addressLatch : Word
  /-- The byte of the write in progress (10_state.md R43). -/
  dataLatch : Byte
  /-- Has a byte been driven on the lane since the write window opened? MODEL's own field, for the harness error of
  42_chip_model.md R265 (log 15). -/
  windowDriven : Bool
  algState : AlgState
  softwareIdActive : Bool
  bypassActive : Bool
  batchOpen : Bool
  busy : Busy
  toggle : Bool
  content : Memory
  /-- The results of the next `busyDraw()` calls, first one first; none listed draws the default 0
  (00_scope.md R9; 42_chip_model.md R293; log 9). -/
  draws : List Busy
  noise : Noise
deriving DecidableEq, Repr

/-- One thing the block does on its two interfaces. -/
inductive IoEvent
  /-- `Tx(b)` (20_memory.md R82). -/
  | tx (b : Byte)
  /-- `TxFlush()` (20_memory.md R83). -/
  | flush
  /-- `MemWrite(a, 4, d)` (20_memory.md R61). -/
  | write (a d : Word)
  /-- `MemRead(a, 4)`, which returned `v` (20_memory.md R62). -/
  | read (a v : Word)
deriving DecidableEq, Repr

/-- The two interfaces: the chips behind the parallel bus, and the ordered record of what the block has done. TX and
the list of bus cycles are views of the record (`Io.txStream`, `Io.cycles`); their order against each other is
20_memory.md R84 (log 20). -/
structure Io where
  chips : Lanes Chip
  trace : List IoEvent
deriving DecidableEq, Repr

/-- A pin event of the chip models (42_chip_model.md R260, R261; 20_memory.md R65). `addrLine` is the source's
AddressChanged of one line, `addr` the result of any number of them; CS, OE, WE and the address are common to the
four instances, the data lines are one lane's. -/
inductive PinEvent
  | cs (asserted : Bool)
  | oe (asserted : Bool)
  | we (asserted : Bool)
  | addr (a : Word)
  | addrLine (line : Nat) (value : Bool)
  | data (lane : Lane) (value : Option Byte)
deriving DecidableEq, Repr

/-- What the bench does next: a pin event, or a power cycle of the programmer (70_reset_and_hazards.md R350). -/
inductive BenchEvent
  | pin (e : PinEvent)
  | powerCycle
deriving DecidableEq, Repr

/-- The whole machine. -/
structure State where
  /-- The parameters (00_scope.md R6, R9); no step writes them (log 1). -/
  cfg : Config
  /-- `S.state` (10_state.md R21). -/
  control : ControlState
  /-- `S.cnt` (10_state.md R22). -/
  cnt : BitVec 4
  /-- `S.pos` (10_state.md R23). -/
  pos : Word
  /-- `S.len` (10_state.md R23). -/
  len : Word
  /-- `S.cursor` (10_state.md R24). -/
  cursor : Word
  /-- `S.endCursor` (10_state.md R24). -/
  endCursor : Word
  /-- `S.chipMask` (10_state.md R28). -/
  chipMask : Mask
  /-- `S.verify` (10_state.md R28). -/
  verify : Bool
  /-- `F.family` (10_state.md R30). -/
  family : Family
  /-- The bytes of a write body drained so far, while one is being drained (41_protocol_dispatcher.md R232).
  MODEL's own field (log 2). -/
  body : Option (List Byte)
  /-- The step in progress never ends (60_exceptions.md R326). MODEL's own field (log 4). -/
  hung : Bool
  /-- `RX`, first byte first (20_memory.md R80). -/
  rx : List Byte
  /-- The chips, `TX` and the bus cycles so far. -/
  io : Io
  /-- Pending harness events (log 13). -/
  bench : List BenchEvent
  /-- The results of the next electrical tests, first one first (41_protocol_dispatcher.md R201; log 10). -/
  etest : List ElectricalResult
  /-- How many uninterpreted electrical-test results have been drawn. MODEL's own field (log 10). -/
  freeCount : Nat
deriving DecidableEq, Repr

/-- Why the machine stops for good. -/
inductive Fault
  /-- The poll loop never ends (60_exceptions.md R326; 93 U2): raised by `step` in the state a hung step has left, which
  has no successor. Safe. -/
  | hang
  /-- The poll loop reached a finite `MAX_POLLS` (60_exceptions.md R326; 93 U1): raised by `ERASE_CHIPS`, erase-portion
  and the write body, only under a configuration that sets the bound. Safe. -/
  | pollTimeout
  /-- Harness error: OE asserted while a write window is open, or a window opening with OE asserted
  (42_chip_model.md R267; 93 U11): raised by a pin event of the bench. Safe. -/
  | oeInWriteWindow
  /-- Harness error: a write window closed in which no byte was driven on the lane (42_chip_model.md R265; 93 U10): raised
  by a pin event of the bench. Safe. -/
  | undrivenCommit
deriving DecidableEq, Repr

/-- Why a step has no meaning. -/
inductive Refusal
  /-- An instruction of the opcode table that has no meaning yet: raised by `exec`'s arm. Safe. -/
  | notModelled (mnemonic : String)
  /-- After the bootloader handoff the block takes no step and consumes no byte (41_protocol_dispatcher.md R205; 93 U4):
  raised by `step`. Safe. -/
  | handedOff
deriving DecidableEq, Repr

/-- A chip-model instance after reset (42_chip_model.md R296; 10_state.md R50). -/
def Chip.fresh (family : Family) (mfr dev : Byte) (content : Memory) : Chip :=
  { fitted := true, family := family, mfrId := mfr, devId := dev, csAsserted := false, oeAsserted := false,
    weAsserted := false, addr := 0, din := none, addressLatch := 0, dataLatch := 0, windowDriven := false,
    algState := .reading, softwareIdActive := false, bypassActive := false, batchOpen := false, busy := .reads 0,
    toggle := false, content := content, draws := [], noise := { upcoming := [], now := 0, restless := false } }

/-- The state after reset of a block with the given parameters and chips (10_state.md R50; 70_reset_and_hazards.md
R351). -/
def State.resetWith (cfg : Config) (chips : Lanes Chip) : State :=
  { cfg := cfg, control := .waitingForCommand, cnt := 0, pos := 0, len := 0, cursor := 0, endCursor := 0,
    chipMask := cfg.chipMaskReset, verify := cfg.verifyReset, family := .familyA, body := none, hung := false,
    rx := [], io := { chips := chips, trace := [] }, bench := [], etest := [], freeCount := 0 }

/-- The machine right after reset: the default parameters and, DESIGN CHOICE (log 7, log 8), four erased FamilyA chips. -/
def State.reset : State :=
  State.resetWith Config.standard (Lanes.same (Chip.fresh .familyA modelMfrA modelDevA Memory.erased))

end Sys2Proof.Machine
end

