-- ==== Sys2Proof/Machine/ChipModel.lean ====
section
/-! DEFINITION. The flash chip behavioural model (42_chip_model.md): the base state, the sector map, one definition per
row of the commit table, the commit function R270 to R281, the read refresh R266, the output R290, and the pin events
R261 to R267. -/

namespace Sys2Proof.Machine

/-- `idle(M)` (10_state.md R48). -/
def Chip.idle (c : Chip) : AlgState :=
  if c.bypassActive then .unlockBypass else if c.softwareIdActive then .softwareId else .reading

/-- `fallback` (42_chip_model.md R270). -/
def Chip.fallback (c : Chip) : Chip := { c with algState := c.idle }

/-- `busyDraw()`: the harness's next draw, 0 where it has none (42_chip_model.md R293). -/
def Chip.busyDraw (c : Chip) : Busy × List Busy :=
  match c.draws with
  | [] => (.reads 0, [])
  | d :: ds => (d, ds)

/-- `busy <- busyDraw(); toggle <- false` (42_chip_model.md R274, R277, R279). -/
def Chip.startBusy (c : Chip) : Chip := { c with busy := c.busyDraw.1, draws := c.busyDraw.2, toggle := false }

/-- The sector that contains content index `i`, as its first index and the index after its last (42_chip_model.md R278):
FamilyB's first 64 KB are four sub-sectors. -/
def sectorOf (f : Family) (i : Nat) : Nat × Nat :=
  match f with
  | .familyA => (i - i % 0x1000, i - i % 0x1000 + 0x1000)
  | .familyB =>
    if i < 0x4000 then (0, 0x4000)
    else if i < 0x6000 then (0x4000, 0x6000)
    else if i < 0x8000 then (0x6000, 0x8000)
    else if i < 0x10000 then (0x8000, 0x10000)
    else (i - i % 0x10000, i - i % 0x10000 + 0x10000)

/-- The content index a shared address selects: `a mod CAP(family)` (20_memory.md R73). -/
def Chip.index (cfg : Config) (c : Chip) (a : Word) : Nat := a.toNat % cfg.cap c.family

/-- `eraseSectorOf(a)` (42_chip_model.md R278). -/
def Chip.eraseSectorOf (cfg : Config) (c : Chip) (a : Word) : Chip :=
  { c with content := c.content.eraseRange (sectorOf c.family (c.index cfg a)).1
                        (sectorOf c.family (c.index cfg a)).2 }

/-- Unlock cycle 1 taken (42_chip_model.md R271). -/
def Chip.unlock1 (c : Chip) : Chip := { c with algState := .unlocking }

/-- The 0xF0 exit (42_chip_model.md R271, R273). -/
def Chip.resetF0 (c : Chip) : Chip := { c with softwareIdActive := false, algState := .reading }

/-- Unlock cycle 2 taken (42_chip_model.md R272). -/
def Chip.unlock2 (c : Chip) : Chip := { c with algState := .waitingForCommand }

/-- Software-ID entry (42_chip_model.md R273). -/
def Chip.enterSoftwareId (c : Chip) : Chip := { c with softwareIdActive := true, algState := .softwareId }

/-- Program command taken (42_chip_model.md R273, R280). -/
def Chip.expectData (c : Chip) : Chip := { c with algState := .programmingByte }

/-- Erase set-up taken (42_chip_model.md R273). -/
def Chip.setupErase (c : Chip) : Chip := { c with algState := .eraseUnlocking1 }

/-- Bypass entry (42_chip_model.md R273). -/
def Chip.enterBypass (c : Chip) : Chip := { c with bypassActive := true, algState := .unlockBypass }

/-- The program commit: the byte is and-ed into the content (42_chip_model.md R274). -/
def Chip.program (cfg : Config) (c : Chip) (a : Word) (d : Byte) : Chip :=
  { ({ c with content := c.content.write (c.index cfg a) (c.content.read (c.index cfg a) &&& d) } : Chip).startBusy with
    algState := .readingStatus }

/-- First cycle of the second unlock pair taken (42_chip_model.md R275). -/
def Chip.eraseUnlock1 (c : Chip) : Chip := { c with algState := .eraseUnlocking2 }

/-- Second cycle of the second unlock pair taken (42_chip_model.md R276). -/
def Chip.eraseUnlock2 (c : Chip) : Chip := { c with algState := .eraseWaitingForCommand }

/-- The chip-erase commit (42_chip_model.md R277). -/
def Chip.eraseChip (c : Chip) : Chip :=
  { ({ c with content := Memory.erased } : Chip).startBusy with batchOpen := false, algState := .readingStatus }

/-- The sector-erase commit (42_chip_model.md R277). -/
def Chip.eraseSector (cfg : Config) (c : Chip) (a : Word) : Chip :=
  { (c.eraseSectorOf cfg a).startBusy with batchOpen := c.family == .familyB, algState := .readingStatus }

/-- A further sector of an open batch (42_chip_model.md R279, first arm). -/
def Chip.eraseSectorMore (cfg : Config) (c : Chip) (a : Word) : Chip := (c.eraseSectorOf cfg a).startBusy

/-- A write that ends the status state (42_chip_model.md R279, second arm). -/
def Chip.abortStatus (c : Chip) : Chip := ({ c with busy := .reads 0, batchOpen := false } : Chip).fallback

/-- First half of the bypass exit (42_chip_model.md R280). -/
def Chip.bypassReset1 (c : Chip) : Chip := { c with algState := .bypassReset }

/-- Second half of the bypass exit: the flag clears first (42_chip_model.md R281). -/
def Chip.bypassReset2 (c : Chip) : Chip := ({ c with bypassActive := false } : Chip).fallback

/-- A write that matches no row of the table: fall back, ending a status state (42_chip_model.md R270, R279). -/
def Chip.unmatched (c : Chip) : Chip := if c.algState = .readingStatus then c.abortStatus else c.fallback

/-- `commit(a, d)` of the chip on lane `l` (42_chip_model.md R270 to R281), one case per value of `algorithmState`. -/
def Chip.commit (cfg : Config) (l : Lane) (c : Chip) (a : Word) (d : Byte) : Chip :=
  match c.algState with
  | .reading | .softwareId =>
    if cfg.match1 c.family a ∧ d = cfg.k1 l then c.unlock1
    else if d = 0xF0 then c.resetF0
    else c.fallback
  | .unlocking => if cfg.match2 c.family a ∧ d = cfg.k2 l then c.unlock2 else c.fallback
  | .waitingForCommand =>
    if d = 0x90 ∧ cfg.match1 c.family a then c.enterSoftwareId
    else if d = 0xA0 ∧ cfg.match1 c.family a then c.expectData
    else if d = 0x80 ∧ cfg.match1 c.family a then c.setupErase
    else if d = 0x20 ∧ cfg.match1 c.family a ∧ c.family = .familyB then c.enterBypass
    else if d = 0xF0 then c.resetF0
    else c.fallback
  | .programmingByte => c.program cfg a d
  | .eraseUnlocking1 => if cfg.match1 c.family a ∧ d = cfg.k1 l then c.eraseUnlock1 else c.fallback
  | .eraseUnlocking2 => if cfg.match2 c.family a ∧ d = cfg.k2 l then c.eraseUnlock2 else c.fallback
  | .eraseWaitingForCommand =>
    if d = 0x10 ∧ cfg.match1 c.family a then c.eraseChip
    else if d = 0x30 then c.eraseSector cfg a
    else c.fallback
  | .readingStatus =>
    if c.family = .familyB ∧ c.batchOpen ∧ d = 0x30 then c.eraseSectorMore cfg a else c.abortStatus
  | .unlockBypass =>
    if d = 0xA0 then c.expectData
    else if d = 0x90 then c.bypassReset1
    else c.fallback
  | .bypassReset => if d = 0x00 then c.bypassReset2 else c.fallback

/-- The next byte of a lane that the spec gives none. -/
def Noise.advance (n : Noise) : Noise :=
  match n.upcoming with
  | b :: bs => { n with now := b, upcoming := bs }
  | [] => if n.restless then { n with now := n.now + 1 } else n

/-- The status part of the read refresh (42_chip_model.md R266). -/
def Chip.refreshStatus (c : Chip) : Chip :=
  match c.algState with
  | .readingStatus =>
    match c.busy with
    | .reads 0 => { c with algState := c.idle, batchOpen := false }
    | .reads (n + 1) => { c with busy := .reads n, toggle := !c.toggle }
    | .forever => { c with toggle := !c.toggle }
  | _ => c

/-- The read refresh of one socket: the chip's own, if there is one, and the next byte of the undriven lane. -/
def Chip.refresh (c : Chip) : Chip :=
  { (if c.fitted then c.refreshStatus else c) with noise := c.noise.advance }

/-- What an instance puts on its lane: nothing, a byte, or a byte the spec does not say. -/
inductive Drive
  | z
  | byte (b : Byte)
  | unspecified
deriving DecidableEq, Repr

/-- What the instance drives while CS and OE are asserted and the address lines read `a` (42_chip_model.md R290). -/
def Chip.driven (cfg : Config) (c : Chip) (a : Word) : Drive :=
  match c.algState with
  | .softwareId =>
    if a = mfrAddr then .byte c.mfrId
    else if a = cfg.devAddr c.family then .byte c.devId
    else .unspecified
  | .readingStatus => .byte (if c.toggle then 0x40 else 0x00)
  | _ => .byte (c.content.read (c.index cfg a))

/-- `dout` (42_chip_model.md R290): a function of the present state and levels. -/
def Chip.dout (cfg : Config) (c : Chip) : Drive :=
  if c.fitted && c.csAsserted && c.oeAsserted then c.driven cfg c.addr else .z

/-- The byte the bus samples on a lane (20_memory.md R62; 93_implementation_defined.md U7, U9). -/
def Chip.sampled (c : Chip) : Drive → Byte
  | .byte b => b
  | .z => c.noise.now
  | .unspecified => c.noise.now

/-- One write cycle as the socket takes it (42_chip_model.md R295), `a` the address as the chips see it: afterwards the
latches hold the write, the address lines the address, and the data lines are released (20_memory.md R65). -/
def Chip.writeCycle (cfg : Config) (l : Lane) (c : Chip) (a : Word) (d : Byte) : Chip :=
  let c' : Chip := { c with addr := a, din := none, addressLatch := a, dataLatch := d, windowDriven := true }
  if c.fitted then c'.commit cfg l a d else c'

/-- The socket after the refresh of one read cycle at address `a` (42_chip_model.md R295). -/
def Chip.readCycle (c : Chip) (a : Word) : Chip := ({ c with addr := a } : Chip).refresh

/-- The byte of one read cycle, sampled after the refresh (42_chip_model.md R290, R295). -/
def Chip.readByte (cfg : Config) (c : Chip) (a : Word) : Byte :=
  (c.readCycle a).sampled (if c.fitted then (c.readCycle a).driven cfg a else .z)

/-- Is the write window open (42_chip_model.md R262)? -/
def Chip.windowOpen (c : Chip) : Bool := c.csAsserted && c.weAsserted

/-- The window opens: latch the address, and the byte if the lane is driven (42_chip_model.md R263). -/
def Chip.openWindow (c : Chip) : Chip :=
  { c with addressLatch := c.addr, dataLatch := c.din.getD c.dataLatch, windowDriven := c.din.isSome }

/-- The window closes: commit once (42_chip_model.md R265); an empty socket commits nothing. -/
def Chip.closeWindow (cfg : Config) (l : Lane) (c : Chip) : Except Fault Chip :=
  if !c.fitted then .ok c
  else if c.windowDriven then .ok (c.commit cfg l c.addressLatch c.dataLatch)
  else .error .undrivenCommit

/-- The effect of a CS or WE edge: `c` before it, `c'` after its level field is updated (42_chip_model.md R262). -/
def Chip.windowEdge (cfg : Config) (l : Lane) (c c' : Chip) : Except Fault Chip :=
  if !c.windowOpen && c'.windowOpen then
    if c'.fitted && c'.oeAsserted then .error .oeInWriteWindow else .ok c'.openWindow
  else if c.windowOpen && !c'.windowOpen then c'.closeWindow cfg l
  else .ok c'

/-- One pin event at the instance on lane `l` (42_chip_model.md R261 to R267). An event that repeats the present level
is no edge and has no effect. -/
def Chip.onPin (cfg : Config) (l : Lane) (c : Chip) : PinEvent → Except Fault Chip
  | .cs x => if x = c.csAsserted then .ok c else c.windowEdge cfg l { c with csAsserted := x }
  | .we x => if x = c.weAsserted then .ok c else c.windowEdge cfg l { c with weAsserted := x }
  | .oe x =>
    if x = c.oeAsserted then .ok c
    else if x && c.fitted && c.windowOpen then .error .oeInWriteWindow
    else if x && c.csAsserted then .ok ({ c with oeAsserted := x } : Chip).refresh
    else .ok { c with oeAsserted := x }
  | .addr a => .ok { c with addr := cfg.busAddr a }
  | .addrLine n v =>
    .ok { c with addr := cfg.busAddr (if v then c.addr ||| (1#32 <<< n) else c.addr &&& ~~~(1#32 <<< n)) }
  | .data l' v =>
    if l' = l then
      if c.windowOpen && v.isSome then
        .ok { c with din := v, dataLatch := v.getD c.dataLatch, windowDriven := true }
      else .ok { c with din := v }
    else .ok c

/-- What the electrical test may leave: the drawn chip-model state. -/
def Chip.touched (c : Chip) (t : ChipTouch) : Chip :=
  { c with algState := t.algState, softwareIdActive := t.softwareIdActive, bypassActive := t.bypassActive,
           batchOpen := t.batchOpen, busy := t.busy, toggle := t.toggle, content := t.content }

/-- The invariants of a chip-model state (42_chip_model.md R282), that the two bypass states and the software-ID state
hold only under their flags (R273, R281; DEDUCED), and the canonical form of the content. -/
abbrev Chip.legal (cfg : Config) (c : Chip) : Prop :=
  (c.bypassActive = true → c.family = .familyB ∧
    c.algState ∈ [AlgState.unlockBypass, AlgState.bypassReset, AlgState.programmingByte, AlgState.readingStatus]) ∧
  (c.batchOpen = true → c.algState = .readingStatus ∧ c.family = .familyB) ∧
  (c.algState ∈ [AlgState.unlockBypass, AlgState.bypassReset] → c.bypassActive = true) ∧
  (c.algState = .softwareId → c.softwareIdActive = true) ∧
  Memory.wf (cfg.cap c.family) c.content

/-- The chip after an electrical test that touched it: any legal chip-model state (93_implementation_defined.md U8); a
draw that is no chip-model state leaves the chip as it was. -/
def Chip.afterElectricalTest (cfg : Config) (c : Chip) (t : ChipTouch) : Chip :=
  if (c.touched t).legal cfg then c.touched t else c

end Sys2Proof.Machine
end

