-- ==== Sys2Proof/Machine/Bus.lean ====
section
/-! DEFINITION. The parallel bus (20_memory.md R60 to R66): write cycle, read cycle and burst read over the four sockets,
at the cycle level of 42_chip_model.md R295; the pin events of one cycle (20_memory.md R65); and the completion poll
(40_flash_sequencer.md R150). -/

namespace Sys2Proof.Machine

/-- `MemWrite(a, 4, d)` (20_memory.md R61): every lane takes its byte at the same address. -/
def Io.memWrite (cfg : Config) (io : Io) (a d : Word) : Io :=
  { chips := io.chips.map (fun l c => c.writeCycle cfg l (cfg.busAddr a) (lane d l)),
    trace := io.trace ++ [.write a d] }

/-- The word a read cycle returns: lane `L` is the byte of the chip on lane `L` (20_memory.md R62). -/
def busWord (cfg : Config) (chips : Lanes Chip) (a : Word) : Word :=
  wordOf (chips.map (fun _ c => c.readByte cfg (cfg.busAddr a)))

/-- `MemRead(a, 4)` (20_memory.md R62). -/
def Io.memRead (cfg : Config) (io : Io) (a : Word) : Word × Io :=
  (busWord cfg io.chips a,
   { chips := io.chips.map (fun _ c => c.readCycle (cfg.busAddr a)),
     trace := io.trace ++ [.read a (busWord cfg io.chips a)] })

/-- Burst read of `n` words from `a`, in ascending order (20_memory.md R63). -/
def Io.burstRead (cfg : Config) (io : Io) (a : Word) : Nat → List Word × Io
  | 0 => ([], io)
  | n + 1 =>
    let r := io.memRead cfg a
    let rest := r.2.burstRead cfg (a + 1) n
    (r.1 :: rest.1, rest.2)

/-- `Tx(b)` for each byte of a list, in order (20_memory.md R82). -/
def Io.tx (io : Io) (bs : List Byte) : Io := { io with trace := io.trace ++ bs.map .tx }

/-- `TxFlush()` (20_memory.md R83). -/
def Io.flush (io : Io) : Io := { io with trace := io.trace ++ [.flush] }

/-- An item of `TX`: a byte, or a flush mark. -/
inductive TxItem
  | byte (b : Byte)
  | flush
deriving DecidableEq, Repr

/-- The item of `TX` an event is, if it is one. -/
def IoEvent.txItem : IoEvent → Option TxItem
  | .tx b => some (.byte b)
  | .flush => some .flush
  | .write _ _ => none
  | .read _ _ => none

/-- Is the event a bus cycle? -/
def IoEvent.isCycle : IoEvent → Bool
  | .tx _ => false
  | .flush => false
  | .write _ _ => true
  | .read _ _ => true

/-- `TX` (20_memory.md R80): a view of the record. -/
def Io.txStream (io : Io) : List TxItem := io.trace.filterMap IoEvent.txItem

/-- The bus cycles so far, in order (20_memory.md R75): a view of the record. -/
def Io.cycles (io : Io) : List IoEvent := io.trace.filter IoEvent.isCycle

/-- The pin events of `MemWrite(a, 4, d)` (20_memory.md R65). -/
def writeCycleEvents (a d : Word) : List PinEvent :=
  [.addr a, .data 0 (some (lane d 0)), .data 1 (some (lane d 1)), .data 2 (some (lane d 2)),
   .data 3 (some (lane d 3)), .cs true, .we true, .we false, .cs false,
   .data 0 none, .data 1 none, .data 2 none, .data 3 none]

/-- The pin events of `MemRead(a, 4)` up to the sampling of the data lines (20_memory.md R65). -/
def readCycleEvents (a : Word) : List PinEvent := [.addr a, .cs true, .oe true]

/-- The pin events of `MemRead(a, 4)` after the sampling (20_memory.md R65). -/
def readCycleEnd : List PinEvent := [.oe false, .cs false]

/-- One pin event at all four sockets (42_chip_model.md R261: the lines are common, the data lines one lane's). -/
def pinAll (cfg : Config) (chips : Lanes Chip) (e : PinEvent) : Except Fault (Lanes Chip) :=
  match chips.l0.onPin cfg 0 e, chips.l1.onPin cfg 1 e, chips.l2.onPin cfg 2 e, chips.l3.onPin cfg 3 e with
  | .ok c0, .ok c1, .ok c2, .ok c3 => .ok { l0 := c0, l1 := c1, l2 := c2, l3 := c3 }
  | .error f, _, _, _ => .error f
  | _, .error f, _, _ => .error f
  | _, _, .error f, _ => .error f
  | _, _, _, .error f => .error f

/-- A list of pin events, in order. -/
def pinEvents (cfg : Config) (chips : Lanes Chip) : List PinEvent → Except Fault (Lanes Chip)
  | [] => .ok chips
  | e :: es =>
    match pinAll cfg chips e with
    | .ok chips' => pinEvents cfg chips' es
    | .error f => .error f

/-- The word on the data lines as the bus samples it (42_chip_model.md R290). -/
def sampledWord (cfg : Config) (chips : Lanes Chip) : Word :=
  wordOf (chips.map (fun _ c => c.sampled (c.dout cfg)))

/-- How a sequencer operation ends: with a result; never (60_exceptions.md R326), in which case the interfaces stand as
the hanging poll found them; or at a finite `MAX_POLLS` (93_implementation_defined.md U1). -/
inductive SeqResult (α : Type)
  | done (x : α) (io : Io)
  | hang (io : Io)
  | timeout
deriving DecidableEq, Repr

/-- Go on with another operation after one that ended. -/
def SeqResult.bind {α β : Type} (r : SeqResult α) (k : α → Io → SeqResult β) : SeqResult β :=
  match r with
  | .done x io => k x io
  | .hang io => .hang io
  | .timeout => .timeout

/-- The poll loop after its first read returned `prev`: up to `n` further reads, until one returns the same word as the
read before it (40_flash_sequencer.md R150); `none` if none of them does. -/
def pollLoop (cfg : Config) (prev : Word) (io : Io) : Nat → Option Io
  | 0 => none
  | n + 1 =>
    let r := io.memRead cfg cfg.statusAddr
    if r.1 = prev then some r.2 else pollLoop cfg r.1 r.2 n

/-- The finite status reads a socket has still to answer as busy (10_state.md R47, `busy`). -/
def Chip.busyReads (c : Chip) : Nat :=
  match c.busy with
  | .reads n => n
  | .forever => 0

/-- How many read cycles it takes until a socket either answers every further one alike or never does: the busy reads
still to come and the bytes still to come on an undriven lane (42_chip_model.md R292). -/
def Chip.pollBound (c : Chip) : Nat :=
  max c.busyReads c.noise.upcoming.length

/-- After this many read cycles every socket is settled or never settles. -/
def pollBound (chips : Lanes Chip) : Nat :=
  max (max chips.l0.pollBound chips.l1.pollBound) (max chips.l2.pollBound chips.l3.pollBound)

/-- `waitForCompletion()` (40_flash_sequencer.md R150). Without a bound on the polls the loop is run for as many read
cycles as can still differ and then settle; a loop that has not ended by then never ends, which is the outcome Hang
(60_exceptions.md R326: "does not unroll the loop"). With a finite `MAX_POLLS`, reaching it is a fault. -/
def waitForCompletion (cfg : Config) (io : Io) : SeqResult Unit :=
  let r := io.memRead cfg cfg.statusAddr
  match cfg.maxPolls with
  | none =>
    match pollLoop cfg r.1 r.2 (pollBound io.chips + 1) with
    | some io' => .done () io'
    | none => .hang io
  | some 0 => .timeout
  | some (n + 1) =>
    match pollLoop cfg r.1 r.2 n with
    | some io' => .done () io'
    | none => .timeout

end Sys2Proof.Machine
end

