-- ==== Sys2Proof/Machine/Sequencer.lean ====
section
/-! DEFINITION. The sequencer's operations (40_flash_sequencer.md R140 to R155): each a function from the interfaces, the
family read at its start and its operands to the way it ends. `setFamily` and `family` (R141, R142) are the field
`State.family`. -/

namespace Sys2Proof.Machine

/-- The mask of all four chips. -/
def allChips : Mask := 0b1111

/-- `read(startAddress, outWords, count)` (40_flash_sequencer.md R143). -/
def seqRead (cfg : Config) (io : Io) (start : Word) (count : Nat) : List Word × Io := io.burstRead cfg start count

/-- `unlock(chipMask)` (40_flash_sequencer.md R144). -/
def seqUnlock (cfg : Config) (f : Family) (m : Mask) (io : Io) : Io :=
  (io.memWrite cfg (cfg.ua1 f) (cfg.key1 &&& laneMask m)).memWrite cfg (cfg.ua2 f) (cfg.key2 &&& laneMask m)

/-- The four identities of a pair of words, chip index 0 (lane 3) first, manufacturer before device
(40_flash_sequencer.md R145; 30_encoding.md R111). -/
def identityBytes (mfr dev : Word) : List Byte :=
  [lane mfr 3, lane dev 3, lane mfr 2, lane dev 2, lane mfr 1, lane dev 1, lane mfr 0, lane dev 0]

/-- `identify(outIdentities)`, answering the eight identity bytes (40_flash_sequencer.md R145). -/
def seqIdentify (cfg : Config) (f : Family) (io : Io) : List Byte × Io :=
  let mfr := ((seqUnlock cfg f allChips io).memWrite cfg (cfg.ua1 f) (rep 0x90)).memRead cfg mfrAddr
  let dev := mfr.2.memRead cfg (cfg.devAddr f)
  (identityBytes mfr.1 dev.1, dev.2.memWrite cfg cfg.idExitAddr (rep 0xF0))

/-- The erase prefix: unlock, 0x80 at unlock address 1, unlock (30_encoding.md R121). -/
def seqErasePrefix (cfg : Config) (f : Family) (m : Mask) (io : Io) : Io :=
  seqUnlock cfg f m ((seqUnlock cfg f m io).memWrite cfg (cfg.ua1 f) (cmdWord 0x80 m))

/-- `eraseAll(chipMask)` (40_flash_sequencer.md R146). -/
def seqEraseAll (cfg : Config) (f : Family) (m : Mask) (io : Io) : SeqResult Unit :=
  waitForCompletion cfg ((seqErasePrefix cfg f m io).memWrite cfg (cfg.ua1 f) (cmdWord 0x10 m))

/-- `eraseSectors`, FamilyA body, `n` sectors from `a` (40_flash_sequencer.md R148). -/
def seqEraseSectorsA (cfg : Config) (m : Mask) (io : Io) (a : Word) : Nat → SeqResult Unit
  | 0 => .done () io
  | n + 1 =>
    (waitForCompletion cfg ((seqErasePrefix cfg .familyA m io).memWrite cfg a (cmdWord 0x30 m))).bind
      (fun _ io => seqEraseSectorsA cfg m io (a + 0x1000) n)

/-- The 0x30 cycles of `eraseSectors`, FamilyB, `n` sectors from `a`; the sector at address 0 is its four sub-sectors
(40_flash_sequencer.md R149). -/
def seqSectorCyclesB (cfg : Config) (m : Mask) (io : Io) (a : Word) : Nat → Io
  | 0 => io
  | n + 1 =>
    let first := io.memWrite cfg a (cmdWord 0x30 m)
    seqSectorCyclesB cfg m
      (if a = 0 then
        ((first.memWrite cfg 0x4000 (cmdWord 0x30 m)).memWrite cfg 0x6000 (cmdWord 0x30 m)).memWrite cfg 0x8000
          (cmdWord 0x30 m)
      else first)
      (a + 0x10000) n

/-- `eraseSectors`, FamilyB body (40_flash_sequencer.md R149). -/
def seqEraseSectorsB (cfg : Config) (m : Mask) (io : Io) (a : Word) (n : Nat) : SeqResult Unit :=
  waitForCompletion cfg (seqSectorCyclesB cfg m (seqErasePrefix cfg .familyB m io) a n)

/-- `eraseSectors(address, length, chipMask) -> bool` (40_flash_sequencer.md R147). -/
def seqEraseSectors (cfg : Config) (f : Family) (m : Mask) (io : Io) (address length : Word) : SeqResult Bool :=
  if address.toNat % sectorSize f ≠ 0 ∨ length.toNat % sectorSize f ≠ 0 then .done false io
  else
    (match f with
      | .familyA => seqEraseSectorsA cfg m io address (length.toNat / sectorSize f)
      | .familyB => seqEraseSectorsB cfg m io address (length.toNat / sectorSize f)).bind
      (fun _ io => .done true io)

/-- `writeAll`, FamilyA (40_flash_sequencer.md R151). -/
def seqWriteAllA (cfg : Config) (io : Io) (a : Word) : List Word → SeqResult Unit
  | [] => .done () io
  | w :: ws =>
    (waitForCompletion cfg
      (((seqUnlock cfg .familyA allChips io).memWrite cfg (cfg.ua1 .familyA) (rep 0xA0)).memWrite cfg a w)).bind
      (fun _ io => seqWriteAllA cfg io (a + 1) ws)

/-- The word loop of `writeAll`, FamilyB, in bypass mode (40_flash_sequencer.md R152). -/
def seqBypassAll (cfg : Config) (io : Io) (a : Word) : List Word → SeqResult Unit
  | [] => .done () io
  | w :: ws =>
    (waitForCompletion cfg ((io.memWrite cfg 0 (rep 0xA0)).memWrite cfg a w)).bind
      (fun _ io => seqBypassAll cfg io (a + 1) ws)

/-- `writeAll`, FamilyB (40_flash_sequencer.md R152). -/
def seqWriteAllB (cfg : Config) (io : Io) (a : Word) (ws : List Word) : SeqResult Unit :=
  (seqBypassAll cfg ((seqUnlock cfg .familyB allChips io).memWrite cfg (cfg.ua1 .familyB) (rep 0x20)) a ws).bind
    (fun _ io => .done () ((io.memWrite cfg 0 (rep 0x90)).memWrite cfg 0 (rep 0x00)))

/-- `writeAll(startAddress, words, count)` (40_flash_sequencer.md R151, R152). -/
def seqWriteAll (cfg : Config) (f : Family) (io : Io) (a : Word) (ws : List Word) : SeqResult Unit :=
  match f with
  | .familyA => seqWriteAllA cfg io a ws
  | .familyB => seqWriteAllB cfg io a ws

/-- `writeSome`, FamilyA (40_flash_sequencer.md R153). -/
def seqWriteSomeA (cfg : Config) (m : Mask) (io : Io) (a : Word) : List Word → SeqResult Unit
  | [] => .done () io
  | w :: ws =>
    (waitForCompletion cfg
      (((seqUnlock cfg .familyA m io).memWrite cfg (cfg.ua1 .familyA) (cmdWord 0xA0 m)).memWrite cfg a
        (w &&& laneMask m))).bind
      (fun _ io => seqWriteSomeA cfg m io (a + 1) ws)

/-- The word loop of `writeSome`, FamilyB, in bypass mode (40_flash_sequencer.md R154). -/
def seqBypassSome (cfg : Config) (m : Mask) (io : Io) (a : Word) : List Word → SeqResult Unit
  | [] => .done () io
  | w :: ws =>
    (waitForCompletion cfg ((io.memWrite cfg 0 (cmdWord 0xA0 m)).memWrite cfg a (w &&& laneMask m))).bind
      (fun _ io => seqBypassSome cfg m io (a + 1) ws)

/-- `writeSome`, FamilyB (40_flash_sequencer.md R154). -/
def seqWriteSomeB (cfg : Config) (m : Mask) (io : Io) (a : Word) (ws : List Word) : SeqResult Unit :=
  (seqBypassSome cfg m ((seqUnlock cfg .familyB m io).memWrite cfg (cfg.ua1 .familyB) (cmdWord 0x20 m)) a ws).bind
    (fun _ io => .done () ((io.memWrite cfg 0 (cmdWord 0x90 m)).memWrite cfg 0 (cmdWord 0x00 m)))

/-- `writeSome(startAddress, words, count, chipMask)` (40_flash_sequencer.md R153, R154). -/
def seqWriteSome (cfg : Config) (f : Family) (m : Mask) (io : Io) (a : Word) (ws : List Word) : SeqResult Unit :=
  match f with
  | .familyA => seqWriteSomeA cfg m io a ws
  | .familyB => seqWriteSomeB cfg m io a ws

end Sys2Proof.Machine
end

