-- ==== Sys2Proof/Machine/Ops.lean ====
section
/-! DEFINITION. The shared operations over the state: replies, the error exits (60_exceptions.md R321) as one operation,
the return to idle (41_protocol_dispatcher.md R252), the call of a sequencer operation (60_exceptions.md R320, R326), one
chip's share of a bus write, the draws of the environment, and the power cycle (70_reset_and_hazards.md R350). -/

namespace Sys2Proof.Machine

/-- `Tx` of each byte of a list, in order (20_memory.md R82). -/
def State.tx (s : State) (bs : List Byte) : State := { s with io := s.io.tx bs }

/-- `TxFlush()` (20_memory.md R83). -/
def State.flush (s : State) : State := { s with io := s.io.flush }

/-- Reply, and be idle: how every transaction ends (41_protocol_dispatcher.md R252). Nothing else is reset. -/
def State.finish (s : State) (bs : List Byte) : State := { s.tx bs with control := .waitingForCommand }

/-- The error exits of the block (60_exceptions.md R321). -/
inductive ErrorExit
  | invalidCommand
  | maskRefused
  | readRefused
  | writeRefused
  | verifyFailed (failMask : Mask)
  | eraseRefused
  | eraseFailed
deriving DecidableEq, Repr

/-- The reply bytes of an error exit (60_exceptions.md R321; 30_encoding.md R114 for the verify byte). The OK and the
flush of `eraseFailed` were appended before `eraseSectors` was called (41_protocol_dispatcher.md R240). -/
def ErrorExit.reply (r : ReplyCodes) : ErrorExit → List Byte
  | .invalidCommand => [r.invalid]
  | .maskRefused => [r.error]
  | .readRefused => [r.readError]
  | .writeRefused => [r.writeError]
  | .verifyFailed failMask => [r.verifyByte failMask]
  | .eraseRefused => [r.erasePortionError]
  | .eraseFailed => [r.erasePortionError]

/-- `raise E` (00_scope.md R13; 60_exceptions.md R321): append the reply of the exit, be idle, end the step. It saves no
context and there is no handler, so there is no return from it (60_exceptions.md R325): the next byte is a command. -/
def State.raise (s : State) (e : ErrorExit) : State := s.finish (e.reply s.cfg.reply)

/-- Call a sequencer operation and go on when it ends. One that never ends leaves the block hung, with what was done
before the hanging poll (60_exceptions.md R326); one that reaches `MAX_POLLS` is a fault (93 U1). -/
def State.afterSeq {α : Type} (s : State) (r : SeqResult α) (k : α → State → Host.Outcome State Fault Refusal) :
    Host.Outcome State Fault Refusal :=
  match r with
  | .done x io => k x { s with io := io }
  | .hang io => .next { s with io := io, hung := true }
  | .timeout => .fault .pollTimeout

/-- Change the chip on one lane, if there is one. -/
def State.onLane (s : State) (l : Lane) (f : Chip → Chip) : State :=
  if (s.io.chips.get l).fitted then
    { s with io := { s.io with chips := s.io.chips.set (f (s.io.chips.get l)) l } }
  else s

/-- The result of the next run of the electrical-test routine: the harness's, or one that nothing constrains
(41_protocol_dispatcher.md R201; log 10). -/
def State.electricalResult (s : State) : ElectricalResult :=
  match s.etest with
  | r :: _ => r
  | [] => Config.electricalTest s.freeCount

/-- What the electrical-test routine leaves of the chips (93_implementation_defined.md U8). -/
def touchChips (cfg : Config) (chips : Lanes Chip) (r : ElectricalResult) : Lanes Chip :=
  match r.touched with
  | none => chips
  | some t => chips.map (fun l c => c.afterElectricalTest cfg (t.get l))

/-- `fails <- ElectricalTest()`: the routine runs once; its result is used up (41_protocol_dispatcher.md R201). -/
def State.runElectricalTest (s : State) : State :=
  { s with
    io := { s.io with chips := touchChips s.cfg s.io.chips s.electricalResult },
    etest := s.etest.tail,
    freeCount := if s.etest.isEmpty then s.freeCount + 1 else s.freeCount }

/-- The power cycle of the programmer: the session, the family register and the streams are as after reset, the chips
stay as they are (70_reset_and_hazards.md R350, R352); the pending inputs of the environment stay too. -/
def State.powerCycle (s : State) (bench : List BenchEvent) : State :=
  { State.resetWith s.cfg s.io.chips with bench := bench, etest := s.etest, freeCount := s.freeCount }

end Sys2Proof.Machine
end

