-- ==== Sys2Proof/Machine/Operands.lean ====
section
/-! DEFINITION. The operand forms of the host bytes: the little-endian field accumulators (10_state.md R22, R23), the
validation of complete fields (41_protocol_dispatcher.md R183, R221, R222, R231, R240; 20_memory.md R70), the chunk cursor
(10_state.md R24), and the push of one chunk (R224). -/

namespace Sys2Proof.Machine

/-- `S.pos` with byte number `S.cnt` or-ed in, and the count one higher (41_protocol_dispatcher.md R220, R222). -/
def State.takePosByte (s : State) (b : Byte) : State :=
  { s with pos := accumulate s.pos b s.cnt.toNat, cnt := s.cnt + 1 }

/-- `S.len` with byte number `S.cnt` or-ed in, and the count one higher (41_protocol_dispatcher.md R221). -/
def State.takeLenByte (s : State) (b : Byte) : State :=
  { s with len := accumulate s.len b s.cnt.toNat, cnt := s.cnt + 1 }

/-- One byte of the erase-portion payload: bytes 0 to 3 the position, 4 to 7 the length (41_protocol_dispatcher.md R240). -/
def State.takeEraseByte (s : State) (b : Byte) : State :=
  if s.cnt.toNat < 4 then { s with pos := accumulate s.pos b s.cnt.toNat, cnt := s.cnt + 1 }
  else { s with len := accumulate s.len b (s.cnt.toNat - 4), cnt := s.cnt + 1 }

/-- Is the read request good (41_protocol_dispatcher.md R221)? The sum is a natural number (R183). -/
def State.readRequestOk (s : State) : Bool :=
  s.len != 0 && s.len.toNat % chunkBytes == 0 && s.pos.toNat % chunkBytes == 0 &&
    decide (s.pos.toNat + s.len.toNat ≤ 4 * s.cfg.maxChipSize)

/-- Is the write start aligned (41_protocol_dispatcher.md R222)? -/
def State.writeStartOk (s : State) : Bool := s.pos.toNat % chunkBytes == 0

/-- Is there room for the next chunk of a write (41_protocol_dispatcher.md R231)? -/
def State.chunkFits (s : State) : Bool := decide ((s.cursor.toNat + 1) * chunkWords ≤ s.cfg.maxChipSize)

/-- Is the erase-portion request good (41_protocol_dispatcher.md R240)? The sum is a natural number (R183), and the bound
is four times the per-chip capacity of the active family. -/
def State.eraseRequestOk (s : State) : Bool :=
  s.pos.toNat % s.cfg.eraseGranule == 0 && s.len.toNat % s.cfg.eraseGranule == 0 &&
    decide (s.pos.toNat + s.len.toNat ≤ 4 * s.cfg.cap s.family)

/-- The chunk a combined byte offset lies in: `offset div CHUNK_BYTES` (41_protocol_dispatcher.md R221, R222). -/
def chunkOf (offset : Nat) : Word := BitVec.ofNat 32 (offset / chunkBytes)

/-- The shared address a combined byte offset lies at: `offset div 4` (41_protocol_dispatcher.md R240). -/
def sharedAddr (offset : Word) : Word := BitVec.ofNat 32 (offset.toNat / 4)

/-- The first shared address of a chunk: `cursor * CHUNK_WORDS` (10_state.md R24), modulo 2^32 (40_flash_sequencer.md
R140). -/
def chunkStart (cursor : Word) : Word := cursor * BitVec.ofNat 32 chunkWords

/-- `n` words from the start of the chunk at the cursor, read in ascending order and sent lane 3 first
(41_protocol_dispatcher.md R224). -/
def State.sendWords (s : State) (n : Nat) : State :=
  let r := seqRead s.cfg s.io (chunkStart s.cursor) n
  ({ s with io := r.2 } : State).tx (unpackWords r.1)

/-- `SendChunk()` (41_protocol_dispatcher.md R224). -/
def State.sendChunk (s : State) : State := s.sendWords chunkWords

end Sys2Proof.Machine
end

