-- ==== Sys2Proof/Machine/Flags.lean ====
section
/-! DEFINITION. The block has no condition codes and no flag that an operation writes on the side (10_state.md R27). What
stands here is the verify flag (10_state.md R28) and the failure mask that verifying computes
(41_protocol_dispatcher.md R234). -/

namespace Sys2Proof.Machine

/-- `S.verify <- v` (41_protocol_dispatcher.md R211, R212). -/
def State.setVerify (s : State) (v : Bool) : State := { s with verify := v }

/-- The selected lanes on which two words differ (41_protocol_dispatcher.md R234). -/
def wordMismatch (m : Mask) (back written : Word) : Mask :=
  maskOf (fun l => m.getLsbD l.val && lane back l != lane written l)

/-- `failMask`: the selected lanes on which some read-back word differs from the word the host sent
(41_protocol_dispatcher.md R234). -/
def failMask (m : Mask) : List Word → List Word → Mask
  | b :: bs, w :: ws => wordMismatch m b w ||| failMask m bs ws
  | _, _ => 0

end Sys2Proof.Machine
end

