-- ==== Sys2Proof/Machine/Commands.lean ====
section
/-! DEFINITION. The commands without operand bytes, and the commands that open a field (41_protocol_dispatcher.md
sections 2 to 6), one definition per row. -/

namespace Sys2Proof.Machine

/-- `ENTER_IDLE` (41_protocol_dispatcher.md R200). -/
def execEnterIdle (s : State) : Host.Outcome State Fault Refusal := .next (s.finish [s.cfg.reply.ok])

/-- The fail entries of the electrical-test reply (30_encoding.md R112). -/
def failEntries (r : ReplyCodes) (fails : List (Byte × Byte)) : List Byte :=
  fails.flatMap (fun p => [r.electricalTestFail, p.1, p.2])

/-- `ELECTRICAL_TEST` (41_protocol_dispatcher.md R201). -/
def execElectricalTest (s : State) : Host.Outcome State Fault Refusal :=
  .next (((s.tx [s.cfg.reply.ok]).flush.runElectricalTest).finish
    (failEntries s.cfg.reply s.electricalResult.fails ++ [s.cfg.reply.electricalTestDone]))

/-- `IDENTIFY` (41_protocol_dispatcher.md R215); it ignores the chip mask. -/
def execIdentify (s : State) : Host.Outcome State Fault Refusal :=
  let ids := seqIdentify s.cfg s.family (s.tx [s.cfg.reply.ok]).io
  .next (({ s with io := ids.2 } : State).finish (ids.1 ++ [s.cfg.reply.identifyDone]))

/-- `READ_BYTE`: always invalid (41_protocol_dispatcher.md R216). -/
def execReadByte (s : State) : Host.Outcome State Fault Refusal := .next (s.raise .invalidCommand)

/-- `READ_CHIPS` (41_protocol_dispatcher.md R202). -/
def execReadChips (s : State) : Host.Outcome State Fault Refusal :=
  .next { s.tx [s.cfg.reply.ok] with pos := 0, len := 0, cnt := 0, control := .readingChipsReadLength }

/-- `ERASE_CHIPS` (41_protocol_dispatcher.md R207): the reply comes after the erase. -/
def execEraseChips (s : State) : Host.Outcome State Fault Refusal :=
  s.afterSeq (seqEraseAll s.cfg s.family s.chipMask s.io) (fun _ s => .next (s.finish [s.cfg.reply.ok]))

/-- `WRITE_CHIPS` (41_protocol_dispatcher.md R208). -/
def execWriteChips (s : State) : Host.Outcome State Fault Refusal :=
  .next { s.tx [s.cfg.reply.ok] with cursor := 0, control := .writingChips }

/-- `GET_BOOTLOADER_STATE` (41_protocol_dispatcher.md R204): always the programmer. -/
def execGetBootloaderState (s : State) : Host.Outcome State Fault Refusal :=
  .next (s.finish [s.cfg.reply.ok, s.cfg.reply.bootloaderInProgrammer])

/-- `ENTER_BOOTLOADER` (41_protocol_dispatcher.md R205): what runs after the handoff is out of scope (00_scope.md R5). -/
def execEnterBootloader (s : State) : Host.Outcome State Fault Refusal :=
  .next { (s.tx [s.cfg.reply.ok]).flush with control := .handedOff }

/-- `ENTER_PROGRAMMER` (41_protocol_dispatcher.md R206). -/
def execEnterProgrammer (s : State) : Host.Outcome State Fault Refusal := .next (s.finish [s.cfg.reply.ok])

/-- `SELECT_FAMILY_A` (41_protocol_dispatcher.md R210; 40_flash_sequencer.md R141). -/
def execSelectFamilyA (s : State) : Host.Outcome State Fault Refusal :=
  .next (({ s with family := .familyA } : State).finish [s.cfg.reply.ok])

/-- `SELECT_FAMILY_B` (41_protocol_dispatcher.md R218; 40_flash_sequencer.md R141). -/
def execSelectFamilyB (s : State) : Host.Outcome State Fault Refusal :=
  .next (({ s with family := .familyB } : State).finish [s.cfg.reply.ok])

/-- `ENABLE_VERIFY` (41_protocol_dispatcher.md R211). -/
def execEnableVerify (s : State) : Host.Outcome State Fault Refusal :=
  .next ((s.setVerify true).finish [s.cfg.reply.ok])

/-- `DISABLE_VERIFY` (41_protocol_dispatcher.md R212). -/
def execDisableVerify (s : State) : Host.Outcome State Fault Refusal :=
  .next ((s.setVerify false).finish [s.cfg.reply.ok])

/-- `ERASE_PORTION` (41_protocol_dispatcher.md R213). -/
def execErasePortion (s : State) : Host.Outcome State Fault Refusal :=
  .next { s.tx [s.cfg.reply.ok] with pos := 0, len := 0, cnt := 0, control := .erasePortionReadingPosLength }

/-- `WRITE_CHIPS_AT` (41_protocol_dispatcher.md R209). -/
def execWriteChipsAt (s : State) : Host.Outcome State Fault Refusal :=
  .next { s.tx [s.cfg.reply.ok] with pos := 0, cnt := 0, control := .writingChipsReadingStartPos }

/-- `READ_CHIPS_AT` (41_protocol_dispatcher.md R203). -/
def execReadChipsAt (s : State) : Host.Outcome State Fault Refusal :=
  .next { s.tx [s.cfg.reply.ok] with pos := 0, len := 0, cnt := 0, control := .readingChipsReadStartPos }

/-- `SET_CHIP_MASK` (41_protocol_dispatcher.md R214). -/
def execSetChipMask (s : State) : Host.Outcome State Fault Refusal :=
  .next { s.tx [s.cfg.reply.ok] with control := .readingChipsMask }

/-- The unassigned command byte 0x0A (41_protocol_dispatcher.md R217). -/
def execUnassigned0A (s : State) : Host.Outcome State Fault Refusal := .next (s.raise .invalidCommand)

/-- Any other unassigned command byte (41_protocol_dispatcher.md R217; 30_encoding.md R102). -/
def execUnassignedDefault (_opcode : Byte) (s : State) : Host.Outcome State Fault Refusal :=
  .next (s.raise .invalidCommand)

/-- The mask byte (41_protocol_dispatcher.md R250; 30_encoding.md R107). -/
def execMaskByte (b : Byte) (s : State) : Host.Outcome State Fault Refusal :=
  if b.toNat ≤ 0b1111 then .next (({ s with chipMask := b.setWidth 4 } : State).finish [s.cfg.reply.ok])
  else .next (s.raise .maskRefused)

end Sys2Proof.Machine
end

