-- ==== Sys2Proof/Machine/EraseFlow.lean ====
section
/-! DEFINITION. The erase-portion payload (41_protocol_dispatcher.md R240). -/

namespace Sys2Proof.Machine

/-- The request is good: reply, flush, erase, and say how it went (41_protocol_dispatcher.md R240). -/
def State.erasePortion (s : State) : Host.Outcome State Fault Refusal :=
  let s := (s.tx [s.cfg.reply.erasePortionOK]).flush
  s.afterSeq (seqEraseSectors s.cfg s.family s.chipMask s.io (sharedAddr s.pos) (sharedAddr s.len))
    (fun ok s => if ok then .next (s.finish [s.cfg.reply.erasePortionFinished]) else .next (s.raise .eraseFailed))

/-- A field byte in `ErasePortionReadingPosLength` (41_protocol_dispatcher.md R240). -/
def execFieldErasePosLen (b : Byte) (s : State) : Host.Outcome State Fault Refusal :=
  let s := s.takeEraseByte b
  if s.cnt = 8 then
    if s.eraseRequestOk then s.erasePortion else .next (s.raise .eraseRefused)
  else .next s

end Sys2Proof.Machine
end

