-- ==== Sys2Proof/Machine/FlashCommands.lean ====
section
/-! DEFINITION. The flash command cycles (format JC): what one lane's byte of a bus write cycle does to the chip on that
lane, one definition per row (42_chip_model.md R271 to R281). The state column of a row is the context in which its byte
decodes to it; the address and family conditions of the rule are tested here too, and where they fail the chip falls back,
as the rule says (log 18). A lane with no chip has nothing to change. -/

namespace Sys2Proof.Machine

/-- `JC_UNLOCK1`: the first unlock key (42_chip_model.md R271). -/
def execJcUnlock1 (l : Lane) (a : Word) (s : State) : Host.Outcome State Fault Refusal :=
  .next (s.onLane l (fun c => if s.cfg.match1 c.family a then c.unlock1 else c.fallback))

/-- `JC_RESET_F0`: the 0xF0 exit in read or software-ID mode (42_chip_model.md R271). -/
def execJcResetF0 (l : Lane) (_a : Word) (s : State) : Host.Outcome State Fault Refusal :=
  .next (s.onLane l (fun c => c.resetF0))

/-- `JC_UNLOCK2`: the second unlock key (42_chip_model.md R272). -/
def execJcUnlock2 (l : Lane) (a : Word) (s : State) : Host.Outcome State Fault Refusal :=
  .next (s.onLane l (fun c => if s.cfg.match2 c.family a then c.unlock2 else c.fallback))

/-- `JC_SOFTWARE_ID`: software-ID entry, 0x90 (42_chip_model.md R273). -/
def execJcSoftwareId (l : Lane) (a : Word) (s : State) : Host.Outcome State Fault Refusal :=
  .next (s.onLane l (fun c => if s.cfg.match1 c.family a then c.enterSoftwareId else c.fallback))

/-- `JC_PROGRAM`: the program command, 0xA0 (42_chip_model.md R273). -/
def execJcProgram (l : Lane) (a : Word) (s : State) : Host.Outcome State Fault Refusal :=
  .next (s.onLane l (fun c => if s.cfg.match1 c.family a then c.expectData else c.fallback))

/-- `JC_ERASE_SETUP`: the erase set-up, 0x80 (42_chip_model.md R273). -/
def execJcEraseSetup (l : Lane) (a : Word) (s : State) : Host.Outcome State Fault Refusal :=
  .next (s.onLane l (fun c => if s.cfg.match1 c.family a then c.setupErase else c.fallback))

/-- `JC_BYPASS_ENTER`: bypass entry, 0x20, FamilyB only (42_chip_model.md R273). -/
def execJcBypassEnter (l : Lane) (a : Word) (s : State) : Host.Outcome State Fault Refusal :=
  .next (s.onLane l (fun c => if s.cfg.match1 c.family a ∧ c.family = .familyB then c.enterBypass else c.fallback))

/-- `JC_RESET_F0_CMD`: the 0xF0 exit after an unlock (42_chip_model.md R273). -/
def execJcResetF0Cmd (l : Lane) (_a : Word) (s : State) : Host.Outcome State Fault Refusal :=
  .next (s.onLane l (fun c => c.resetF0))

/-- `JC_PROGRAM_DATA`: the byte to program (42_chip_model.md R274). -/
def execJcProgramData (l : Lane) (a : Word) (d : Byte) (s : State) : Host.Outcome State Fault Refusal :=
  .next (s.onLane l (fun c => c.program s.cfg a d))

/-- `JC_ERASE_UNLOCK1`: the first key of the second unlock pair (42_chip_model.md R275). -/
def execJcEraseUnlock1 (l : Lane) (a : Word) (s : State) : Host.Outcome State Fault Refusal :=
  .next (s.onLane l (fun c => if s.cfg.match1 c.family a then c.eraseUnlock1 else c.fallback))

/-- `JC_ERASE_UNLOCK2`: the second key of the second unlock pair (42_chip_model.md R276). -/
def execJcEraseUnlock2 (l : Lane) (a : Word) (s : State) : Host.Outcome State Fault Refusal :=
  .next (s.onLane l (fun c => if s.cfg.match2 c.family a then c.eraseUnlock2 else c.fallback))

/-- `JC_CHIP_ERASE`: chip erase, 0x10 (42_chip_model.md R277). -/
def execJcChipErase (l : Lane) (a : Word) (s : State) : Host.Outcome State Fault Refusal :=
  .next (s.onLane l (fun c => if s.cfg.match1 c.family a then c.eraseChip else c.fallback))

/-- `JC_SECTOR_ERASE`: sector erase, 0x30, at any address (42_chip_model.md R277). -/
def execJcSectorErase (l : Lane) (a : Word) (s : State) : Host.Outcome State Fault Refusal :=
  .next (s.onLane l (fun c => c.eraseSector s.cfg a))

/-- `JC_SECTOR_ERASE_MORE`: a further sector of an open FamilyB batch, 0x30 (42_chip_model.md R279). -/
def execJcSectorEraseMore (l : Lane) (a : Word) (s : State) : Host.Outcome State Fault Refusal :=
  .next (s.onLane l (fun c => if c.family = .familyB ∧ c.batchOpen then c.eraseSectorMore s.cfg a else c.abortStatus))

/-- `JC_BYPASS_PROGRAM`: the program command in bypass mode, 0xA0 (42_chip_model.md R280). -/
def execJcBypassProgram (l : Lane) (_a : Word) (s : State) : Host.Outcome State Fault Refusal :=
  .next (s.onLane l (fun c => c.expectData))

/-- `JC_BYPASS_RESET1`: first half of the bypass exit, 0x90 (42_chip_model.md R280). -/
def execJcBypassReset1 (l : Lane) (_a : Word) (s : State) : Host.Outcome State Fault Refusal :=
  .next (s.onLane l (fun c => c.bypassReset1))

/-- `JC_BYPASS_RESET2`: second half of the bypass exit, 0x00 (42_chip_model.md R281). -/
def execJcBypassReset2 (l : Lane) (_a : Word) (s : State) : Host.Outcome State Fault Refusal :=
  .next (s.onLane l (fun c => c.bypassReset2))

/-- `JC_OTHER`: a write that matches no row: fall back (42_chip_model.md R270, R279). -/
def execJcOther (l : Lane) (_a : Word) (_d : Byte) (s : State) : Host.Outcome State Fault Refusal :=
  .next (s.onLane l (fun c => c.unmatched))

end Sys2Proof.Machine
end

