-- ==== Sys2Proof/Machine/ReadFlow.lean ====
section
/-! DEFINITION. The read transactions: the field bytes and the acknowledgements (41_protocol_dispatcher.md R220 to R227). -/

namespace Sys2Proof.Machine

/-- A field byte in `ReadingChipsReadStartPos` (41_protocol_dispatcher.md R220). -/
def execFieldReadStart (b : Byte) (s : State) : Host.Outcome State Fault Refusal :=
  let s := s.takePosByte b
  if s.cnt = 4 then
    .next { s.tx [s.cfg.reply.readOK] with cnt := 0, len := 0, control := .readingChipsReadLength }
  else .next s

/-- The read request is good: the cursors are set, and the first chunk follows the reply (41_protocol_dispatcher.md R221). -/
def State.startRead (s : State) : State :=
  (({ s with
      cursor := chunkOf s.pos.toNat,
      endCursor := chunkOf (s.pos.toNat + s.len.toNat),
      control := .readingChips } : State).tx [s.cfg.reply.readOK]).sendChunk

/-- A field byte in `ReadingChipsReadLength` (41_protocol_dispatcher.md R221). -/
def execFieldReadLength (b : Byte) (s : State) : Host.Outcome State Fault Refusal :=
  let s := s.takeLenByte b
  if s.cnt = 4 then
    if s.readRequestOk then .next s.startRead else .next (s.raise .readRefused)
  else .next s

/-- `ComputerReadOK` (41_protocol_dispatcher.md R225). -/
def execComputerReadOK (s : State) : Host.Outcome State Fault Refusal :=
  let s := { s with cursor := s.cursor + 1 }
  if s.endCursor.toNat ≤ s.cursor.toNat then .next (s.finish [s.cfg.reply.readFinished])
  else .next (s.tx [s.cfg.reply.readMoreData]).sendChunk

/-- `ComputerReadCancel` (41_protocol_dispatcher.md R226). -/
def execComputerReadCancel (s : State) : Host.Outcome State Fault Refusal :=
  .next (s.finish [s.cfg.reply.readConfirmCancel])

/-- Any other byte in `ReadingChips`: ignored (41_protocol_dispatcher.md R227). -/
def execReadAckOther (_b : Byte) (s : State) : Host.Outcome State Fault Refusal := .next s

end Sys2Proof.Machine
end

