-- ==== Sys2Proof/Machine/WriteFlow.lean ====
section
/-! DEFINITION. The write transactions: the start field, the control bytes and the chunk body (41_protocol_dispatcher.md
R222, R230 to R238). The body is drained one byte per step; the step of the last byte programs and verifies (log 2). -/

namespace Sys2Proof.Machine

/-- A field byte in `WritingChipsReadingStartPos` (41_protocol_dispatcher.md R222). The capacity is not tested here: an
aligned start of 0xFFFFFC00 is accepted and leaves the cursor at 0x3FFFFF, as R222's pseudocode and corner case say, although
10_state.md R24 and 41_protocol_dispatcher.md R183 call 0x2000 the largest cursor. Following R222 is DEDUCED (log 32). -/
def execFieldWriteStart (b : Byte) (s : State) : Host.Outcome State Fault Refusal :=
  let s := s.takePosByte b
  if s.cnt = 4 then
    if s.writeStartOk then
      .next { s.tx [s.cfg.reply.writeOK] with cursor := chunkOf s.pos.toNat, control := .writingChips }
    else .next (s.raise .writeRefused)
  else .next s

/-- `ComputerWriteMore` (41_protocol_dispatcher.md R231): the body phase opens, with nothing drained yet. -/
def execComputerWriteMore (s : State) : Host.Outcome State Fault Refusal :=
  if s.chunkFits then .next { s.tx [s.cfg.reply.writeOK] with body := some [] }
  else .next (s.raise .writeRefused)

/-- `ComputerWriteFinish` (41_protocol_dispatcher.md R236). -/
def execComputerWriteFinish (s : State) : Host.Outcome State Fault Refusal := .next (s.finish [s.cfg.reply.writeOK])

/-- `ComputerWriteCancel` (41_protocol_dispatcher.md R237). -/
def execComputerWriteCancel (s : State) : Host.Outcome State Fault Refusal :=
  .next (s.finish [s.cfg.reply.writeConfirmCancel])

/-- Any other byte in the control phase: ignored (41_protocol_dispatcher.md R238). -/
def execWriteCtlOther (_b : Byte) (s : State) : Host.Outcome State Fault Refusal := .next s

/-- The body is written: by `writeAll` when all chips are selected, else by `writeSome` (41_protocol_dispatcher.md R233). -/
def State.programChunk (s : State) (words : List Word) : SeqResult Unit :=
  if s.chipMask = allChips then seqWriteAll s.cfg s.family s.io (chunkStart s.cursor) words
  else seqWriteSome s.cfg s.family s.chipMask s.io (chunkStart s.cursor) words

/-- The chunk is in: reply, and on to the next chunk (41_protocol_dispatcher.md R235). -/
def State.chunkWritten (s : State) : State := { s.tx [s.cfg.reply.writeOK] with cursor := s.cursor + 1 }

/-- The chunk is programmed: verify it if the verify flag is set (41_protocol_dispatcher.md R234, R235). -/
def State.verifyChunk (s : State) (words : List Word) : State :=
  if s.verify then
    let back := seqRead s.cfg s.io (chunkStart s.cursor) chunkWords
    if failMask s.chipMask back.1 words = 0 then ({ s with io := back.2 } : State).chunkWritten
    else ({ s with io := back.2 } : State).raise (.verifyFailed (failMask s.chipMask back.1 words))
  else s.chunkWritten

/-- The body phase after its last byte (41_protocol_dispatcher.md R233 to R235). -/
def State.completeBody (s : State) (bytes : List Byte) : Host.Outcome State Fault Refusal :=
  ({ s with body := none } : State).afterSeq (s.programChunk (packWords bytes))
    (fun _ s => .next (s.verifyChunk (packWords bytes)))

/-- A chunk body byte (41_protocol_dispatcher.md R232; 30_encoding.md R108): it is stored, and the 1024th completes the
body. -/
def execChunkBodyByte (b : Byte) (s : State) : Host.Outcome State Fault Refusal :=
  let bytes := s.body.getD [] ++ [b]
  if bytes.length < chunkBytes then .next { s with body := some bytes } else s.completeBody bytes

end Sys2Proof.Machine
end

