-- ==== Sys2Proof/Machine/Dispatch.lean ====
section
/-! DEFINITION. The dispatch: one arm per row of spec/opcode_table.json, each a direct call of the row's meaning. -/

namespace Sys2Proof.Machine

def exec (i : Instr) (s : State) : Host.Outcome State Fault Refusal :=
  match i with
  | .enterIdle => Sys2Proof.Machine.execEnterIdle s
  | .electricalTest => Sys2Proof.Machine.execElectricalTest s
  | .identify => Sys2Proof.Machine.execIdentify s
  | .readByte => Sys2Proof.Machine.execReadByte s
  | .readChips => Sys2Proof.Machine.execReadChips s
  | .eraseChips => Sys2Proof.Machine.execEraseChips s
  | .writeChips => Sys2Proof.Machine.execWriteChips s
  | .getBootloaderState => Sys2Proof.Machine.execGetBootloaderState s
  | .enterBootloader => Sys2Proof.Machine.execEnterBootloader s
  | .enterProgrammer => Sys2Proof.Machine.execEnterProgrammer s
  | .selectFamilyA => Sys2Proof.Machine.execSelectFamilyA s
  | .selectFamilyB => Sys2Proof.Machine.execSelectFamilyB s
  | .enableVerify => Sys2Proof.Machine.execEnableVerify s
  | .disableVerify => Sys2Proof.Machine.execDisableVerify s
  | .erasePortion => Sys2Proof.Machine.execErasePortion s
  | .writeChipsAt => Sys2Proof.Machine.execWriteChipsAt s
  | .readChipsAt => Sys2Proof.Machine.execReadChipsAt s
  | .setChipMask => Sys2Proof.Machine.execSetChipMask s
  | .unassigned0A => Sys2Proof.Machine.execUnassigned0A s
  | .unassignedDefault opcode => Sys2Proof.Machine.execUnassignedDefault opcode s
  | .fieldReadStart data => Sys2Proof.Machine.execFieldReadStart data s
  | .fieldReadLength data => Sys2Proof.Machine.execFieldReadLength data s
  | .fieldWriteStart data => Sys2Proof.Machine.execFieldWriteStart data s
  | .fieldErasePosLen data => Sys2Proof.Machine.execFieldErasePosLen data s
  | .maskByte data => Sys2Proof.Machine.execMaskByte data s
  | .chunkBodyByte data => Sys2Proof.Machine.execChunkBodyByte data s
  | .computerReadOK => Sys2Proof.Machine.execComputerReadOK s
  | .computerReadCancel => Sys2Proof.Machine.execComputerReadCancel s
  | .readAckOther data => Sys2Proof.Machine.execReadAckOther data s
  | .computerWriteMore => Sys2Proof.Machine.execComputerWriteMore s
  | .computerWriteFinish => Sys2Proof.Machine.execComputerWriteFinish s
  | .computerWriteCancel => Sys2Proof.Machine.execComputerWriteCancel s
  | .writeCtlOther data => Sys2Proof.Machine.execWriteCtlOther data s
  | .jcUnlock1 lane addr => Sys2Proof.Machine.execJcUnlock1 lane addr s
  | .jcResetF0 lane addr => Sys2Proof.Machine.execJcResetF0 lane addr s
  | .jcUnlock2 lane addr => Sys2Proof.Machine.execJcUnlock2 lane addr s
  | .jcSoftwareId lane addr => Sys2Proof.Machine.execJcSoftwareId lane addr s
  | .jcProgram lane addr => Sys2Proof.Machine.execJcProgram lane addr s
  | .jcEraseSetup lane addr => Sys2Proof.Machine.execJcEraseSetup lane addr s
  | .jcBypassEnter lane addr => Sys2Proof.Machine.execJcBypassEnter lane addr s
  | .jcResetF0Cmd lane addr => Sys2Proof.Machine.execJcResetF0Cmd lane addr s
  | .jcProgramData lane addr data => Sys2Proof.Machine.execJcProgramData lane addr data s
  | .jcEraseUnlock1 lane addr => Sys2Proof.Machine.execJcEraseUnlock1 lane addr s
  | .jcEraseUnlock2 lane addr => Sys2Proof.Machine.execJcEraseUnlock2 lane addr s
  | .jcChipErase lane addr => Sys2Proof.Machine.execJcChipErase lane addr s
  | .jcSectorErase lane addr => Sys2Proof.Machine.execJcSectorErase lane addr s
  | .jcSectorEraseMore lane addr => Sys2Proof.Machine.execJcSectorEraseMore lane addr s
  | .jcBypassProgram lane addr => Sys2Proof.Machine.execJcBypassProgram lane addr s
  | .jcBypassReset1 lane addr => Sys2Proof.Machine.execJcBypassReset1 lane addr s
  | .jcBypassReset2 lane addr => Sys2Proof.Machine.execJcBypassReset2 lane addr s
  | .jcOther lane addr data => Sys2Proof.Machine.execJcOther lane addr data s

end Sys2Proof.Machine
end

