-- ==== Sys2Proof/Machine/Contexts.lean ====
section
/-! DEFINITION. Which decoding contexts a row of spec/opcode_table.json stands in (30_encoding.md R100, R122;
42_chip_model.md R282): the state column and the address column of the table, as predicates. -/

namespace Sys2Proof

/-- Is this the context of a host byte consumed in the given control state, outside a write body? -/
def Ctx.isHost (c : ControlState) : Ctx → Bool
  | .host c' inBody => c' == c && !(inBody && c == .writingChips)
  | .lane .. => false

/-- Is this the context of a write body byte (30_encoding.md R100, last class but one)? -/
def Ctx.isBody : Ctx → Bool
  | .host c inBody => c == .writingChips && inBody
  | .lane .. => false

/-- Is this the context of a byte on lane `l` at address `a`, the chip there in one of the states `sts`? -/
def Ctx.isLane (l : Lane) (a : Word) (sts : List AlgState) : Ctx → Bool
  | .host .. => false
  | .lane l' _ st _ a' => l' == l && a' == a && sts.contains st

/-- Does the address match the first (`match1`) unlock address of the chip of this context? -/
def Ctx.atUA1 (cfg : Config) : Ctx → Bool
  | .host .. => false
  | .lane _ f _ _ a => cfg.match1 f a

/-- Does the address match the second (`match2`) unlock address of the chip of this context? -/
def Ctx.atUA2 (cfg : Config) : Ctx → Bool
  | .host .. => false
  | .lane _ f _ _ a => cfg.match2 f a

/-- Is the chip of this context a FamilyB chip? -/
def Ctx.isB : Ctx → Bool
  | .host .. => false
  | .lane _ f _ _ _ => f == .familyB

/-- Does the chip of this context hold a sector-erase batch open? -/
def Ctx.isBatch : Ctx → Bool
  | .host .. => false
  | .lane _ _ _ bo _ => bo

/-- Does a row other than JC_OTHER match byte `d` in this context? The condition column of the table of
42_chip_model.md R282. -/
def Ctx.rowMatches (cfg : Config) (d : Byte) : Ctx → Bool
  | .host .. => false
  | .lane l f st bo a =>
    match st with
    | .reading | .softwareId => (cfg.match1 f a && d == cfg.k1 l) || d == 0xF0
    | .unlocking => cfg.match2 f a && d == cfg.k2 l
    | .waitingForCommand =>
      (cfg.match1 f a && (d == 0x90 || d == 0xA0 || d == 0x80 || (d == 0x20 && f == .familyB))) || d == 0xF0
    | .programmingByte => true
    | .eraseUnlocking1 => cfg.match1 f a && d == cfg.k1 l
    | .eraseUnlocking2 => cfg.match2 f a && d == cfg.k2 l
    | .eraseWaitingForCommand => (cfg.match1 f a && d == 0x10) || d == 0x30
    | .readingStatus => f == .familyB && bo && d == 0x30
    | .unlockBypass => d == 0xA0 || d == 0x90
    | .bypassReset => d == 0x00

/-- Is the context a lane's? -/
def Ctx.isAnyLane (l : Lane) (a : Word) : Ctx → Bool
  | .host .. => false
  | .lane l' _ _ _ a' => l' == l && a' == a

end Sys2Proof
end

