-- ==== Sys2Proof/WellFormed.lean ====
section
/-! DEFINITION. Well-formed instructions: the context an instruction of each row stands in, and the conditions its
row of spec/opcode_table.json puts on the operands. -/

namespace Sys2Proof

/-- An instruction is well-formed in a context when the context is its row's and its operands meet its row's
conditions. -/
def Instr.wellFormed (cfg : Config) (ctx : Ctx) : Instr → Bool
  | .enterIdle | .electricalTest | .identify | .readByte | .readChips | .eraseChips | .writeChips
  | .getBootloaderState | .enterBootloader | .enterProgrammer | .selectFamilyA | .selectFamilyB | .enableVerify
  | .disableVerify | .erasePortion | .writeChipsAt | .readChipsAt | .setChipMask => ctx.isHost .waitingForCommand
  | .unassigned0A => ctx.isHost .waitingForCommand && !(cfg.command.toList.contains 0x0A)
  | .unassignedDefault b => ctx.isHost .waitingForCommand && !(cfg.command.toList.contains b) && b != 0x0A
  | .fieldReadStart _ => ctx.isHost .readingChipsReadStartPos
  | .fieldReadLength _ => ctx.isHost .readingChipsReadLength
  | .fieldWriteStart _ => ctx.isHost .writingChipsReadingStartPos
  | .fieldErasePosLen _ => ctx.isHost .erasePortionReadingPosLength
  | .maskByte _ => ctx.isHost .readingChipsMask
  | .chunkBodyByte _ => ctx.isBody
  | .computerReadOK | .computerReadCancel => ctx.isHost .readingChips
  | .readAckOther b => ctx.isHost .readingChips && b != cfg.ack.readOK && b != cfg.ack.readCancel
  | .computerWriteMore | .computerWriteFinish | .computerWriteCancel => ctx.isHost .writingChips
  | .writeCtlOther b =>
    ctx.isHost .writingChips && b != cfg.ack.writeMore && b != cfg.ack.writeFinish && b != cfg.ack.writeCancel
  | .jcUnlock1 l a => ctx.isLane l a [.reading, .softwareId] && ctx.atUA1 cfg
  | .jcResetF0 l a => ctx.isLane l a [.reading, .softwareId] && !(ctx.atUA1 cfg && cfg.k1 l == 0xF0)
  | .jcUnlock2 l a => ctx.isLane l a [.unlocking] && ctx.atUA2 cfg
  | .jcSoftwareId l a | .jcProgram l a | .jcEraseSetup l a => ctx.isLane l a [.waitingForCommand] && ctx.atUA1 cfg
  | .jcBypassEnter l a => ctx.isLane l a [.waitingForCommand] && ctx.atUA1 cfg && ctx.isB
  | .jcResetF0Cmd l a => ctx.isLane l a [.waitingForCommand]
  | .jcProgramData l a _ => ctx.isLane l a [.programmingByte]
  | .jcEraseUnlock1 l a => ctx.isLane l a [.eraseUnlocking1] && ctx.atUA1 cfg
  | .jcEraseUnlock2 l a => ctx.isLane l a [.eraseUnlocking2] && ctx.atUA2 cfg
  | .jcChipErase l a => ctx.isLane l a [.eraseWaitingForCommand] && ctx.atUA1 cfg
  | .jcSectorErase l a => ctx.isLane l a [.eraseWaitingForCommand]
  | .jcSectorEraseMore l a => ctx.isLane l a [.readingStatus] && ctx.isB && ctx.isBatch
  | .jcBypassProgram l a | .jcBypassReset1 l a => ctx.isLane l a [.unlockBypass]
  | .jcBypassReset2 l a => ctx.isLane l a [.bypassReset]
  | .jcOther l a d => ctx.isAnyLane l a && !(ctx.rowMatches cfg d)

end Sys2Proof
end

