-- ==== Sys2Proof/Decode.lean ====
section
/-! DEFINITION. The decoder: which row of spec/opcode_table.json a byte is, by its context (30_encoding.md R100, R101,
R105 to R109; 41_protocol_dispatcher.md R181; 42_chip_model.md R271 to R281), total on any bytes, and the encoder. -/

namespace Sys2Proof

/-- Why no instruction was decoded. -/
inductive DecodeError
  /-- There is no byte to decode: the step takes place when one arrives (20_memory.md R81). -/
  | noByte
  /-- `HandedOff`: no byte is consumed (41_protocol_dispatcher.md R181, R205). -/
  | handedOff
deriving DecidableEq, Repr

/-- A command byte (30_encoding.md R101); every unassigned value has its row too (R102). -/
def decodeCommand (cfg : Config) (b : Byte) : Instr :=
  if b = cfg.command.enterIdle then .enterIdle
  else if b = cfg.command.electricalTest then .electricalTest
  else if b = cfg.command.identify then .identify
  else if b = cfg.command.readByte then .readByte
  else if b = cfg.command.readChips then .readChips
  else if b = cfg.command.eraseChips then .eraseChips
  else if b = cfg.command.writeChips then .writeChips
  else if b = cfg.command.getBootloaderState then .getBootloaderState
  else if b = cfg.command.enterBootloader then .enterBootloader
  else if b = cfg.command.enterProgrammer then .enterProgrammer
  else if b = cfg.command.selectFamilyA then .selectFamilyA
  else if b = cfg.command.selectFamilyB then .selectFamilyB
  else if b = cfg.command.enableVerify then .enableVerify
  else if b = cfg.command.disableVerify then .disableVerify
  else if b = cfg.command.erasePortion then .erasePortion
  else if b = cfg.command.writeChipsAt then .writeChipsAt
  else if b = cfg.command.readChipsAt then .readChipsAt
  else if b = cfg.command.setChipMask then .setChipMask
  else if b = 0x0A then .unassigned0A
  else .unassignedDefault b

/-- A read acknowledgement (30_encoding.md R105). -/
def decodeReadAck (cfg : Config) (b : Byte) : Instr :=
  if b = cfg.ack.readOK then .computerReadOK
  else if b = cfg.ack.readCancel then .computerReadCancel
  else .readAckOther b

/-- A write control byte (30_encoding.md R106). -/
def decodeWriteCtl (cfg : Config) (b : Byte) : Instr :=
  if b = cfg.ack.writeMore then .computerWriteMore
  else if b = cfg.ack.writeFinish then .computerWriteFinish
  else if b = cfg.ack.writeCancel then .computerWriteCancel
  else .writeCtlOther b

/-- A host byte, by the control state first and the byte second (41_protocol_dispatcher.md R181). -/
def decodeHost (cfg : Config) (control : ControlState) (inBody : Bool) (b : Byte) : Except DecodeError Instr :=
  match control with
  | .waitingForCommand => .ok (decodeCommand cfg b)
  | .readingChipsReadStartPos => .ok (.fieldReadStart b)
  | .readingChipsReadLength => .ok (.fieldReadLength b)
  | .readingChips => .ok (decodeReadAck cfg b)
  | .writingChipsReadingStartPos => .ok (.fieldWriteStart b)
  | .writingChips => .ok (if inBody then .chunkBodyByte b else decodeWriteCtl cfg b)
  | .erasePortionReadingPosLength => .ok (.fieldErasePosLen b)
  | .readingChipsMask => .ok (.maskByte b)
  | .handedOff => .error .handedOff

/-- One lane's byte of a bus write cycle, by the state of the chip on the lane (30_encoding.md R122; the rows of the
table of 42_chip_model.md R282). -/
def decodeLane (cfg : Config) (l : Lane) (f : Family) (st : AlgState) (batchOpen : Bool) (a : Word) (d : Byte) :
    Instr :=
  match st with
  | .reading | .softwareId =>
    if cfg.match1 f a ∧ d = cfg.k1 l then .jcUnlock1 l a
    else if d = 0xF0 then .jcResetF0 l a
    else .jcOther l a d
  | .unlocking => if cfg.match2 f a ∧ d = cfg.k2 l then .jcUnlock2 l a else .jcOther l a d
  | .waitingForCommand =>
    if d = 0x90 ∧ cfg.match1 f a then .jcSoftwareId l a
    else if d = 0xA0 ∧ cfg.match1 f a then .jcProgram l a
    else if d = 0x80 ∧ cfg.match1 f a then .jcEraseSetup l a
    else if d = 0x20 ∧ cfg.match1 f a ∧ f = .familyB then .jcBypassEnter l a
    else if d = 0xF0 then .jcResetF0Cmd l a
    else .jcOther l a d
  | .programmingByte => .jcProgramData l a d
  | .eraseUnlocking1 => if cfg.match1 f a ∧ d = cfg.k1 l then .jcEraseUnlock1 l a else .jcOther l a d
  | .eraseUnlocking2 => if cfg.match2 f a ∧ d = cfg.k2 l then .jcEraseUnlock2 l a else .jcOther l a d
  | .eraseWaitingForCommand =>
    if d = 0x10 ∧ cfg.match1 f a then .jcChipErase l a
    else if d = 0x30 then .jcSectorErase l a
    else .jcOther l a d
  | .readingStatus =>
    if f = .familyB ∧ batchOpen ∧ d = 0x30 then .jcSectorEraseMore l a else .jcOther l a d
  | .unlockBypass =>
    if d = 0xA0 then .jcBypassProgram l a
    else if d = 0x90 then .jcBypassReset1 l a
    else .jcOther l a d
  | .bypassReset => if d = 0x00 then .jcBypassReset2 l a else .jcOther l a d

/-- Decode one instruction from the front of a byte list, and say what is left. Every unit is one byte
(30_encoding.md R118). `HandedOff` is tested before the bytes are looked at: no byte is consumed there. -/
def decode (cfg : Config) (ctx : Ctx) (bytes : List Byte) : Except DecodeError (Instr × List Byte) :=
  match ctx with
  | .host .handedOff _ => .error .handedOff
  | .host control inBody =>
    match bytes with
    | [] => .error .noByte
    | b :: rest => (decodeHost cfg control inBody b).map (fun i => (i, rest))
  | .lane l f st batchOpen a =>
    match bytes with
    | [] => .error .noByte
    | d :: rest => .ok (decodeLane cfg l f st batchOpen a d, rest)

/-- The bytes of an instruction: always one (30_encoding.md R101, R104 to R108, R120). -/
def encode (cfg : Config) : Instr → List Byte
  | .enterIdle => [cfg.command.enterIdle]
  | .electricalTest => [cfg.command.electricalTest]
  | .identify => [cfg.command.identify]
  | .readByte => [cfg.command.readByte]
  | .readChips => [cfg.command.readChips]
  | .eraseChips => [cfg.command.eraseChips]
  | .writeChips => [cfg.command.writeChips]
  | .getBootloaderState => [cfg.command.getBootloaderState]
  | .enterBootloader => [cfg.command.enterBootloader]
  | .enterProgrammer => [cfg.command.enterProgrammer]
  | .selectFamilyA => [cfg.command.selectFamilyA]
  | .selectFamilyB => [cfg.command.selectFamilyB]
  | .enableVerify => [cfg.command.enableVerify]
  | .disableVerify => [cfg.command.disableVerify]
  | .erasePortion => [cfg.command.erasePortion]
  | .writeChipsAt => [cfg.command.writeChipsAt]
  | .readChipsAt => [cfg.command.readChipsAt]
  | .setChipMask => [cfg.command.setChipMask]
  | .unassigned0A => [0x0A]
  | .unassignedDefault b => [b]
  | .fieldReadStart b => [b]
  | .fieldReadLength b => [b]
  | .fieldWriteStart b => [b]
  | .fieldErasePosLen b => [b]
  | .maskByte b => [b]
  | .chunkBodyByte b => [b]
  | .computerReadOK => [cfg.ack.readOK]
  | .computerReadCancel => [cfg.ack.readCancel]
  | .readAckOther b => [b]
  | .computerWriteMore => [cfg.ack.writeMore]
  | .computerWriteFinish => [cfg.ack.writeFinish]
  | .computerWriteCancel => [cfg.ack.writeCancel]
  | .writeCtlOther b => [b]
  | .jcUnlock1 l _ => [cfg.k1 l]
  | .jcResetF0 _ _ => [0xF0]
  | .jcUnlock2 l _ => [cfg.k2 l]
  | .jcSoftwareId _ _ => [0x90]
  | .jcProgram _ _ => [0xA0]
  | .jcEraseSetup _ _ => [0x80]
  | .jcBypassEnter _ _ => [0x20]
  | .jcResetF0Cmd _ _ => [0xF0]
  | .jcProgramData _ _ d => [d]
  | .jcEraseUnlock1 l _ => [cfg.k1 l]
  | .jcEraseUnlock2 l _ => [cfg.k2 l]
  | .jcChipErase _ _ => [0x10]
  | .jcSectorErase _ _ => [0x30]
  | .jcSectorEraseMore _ _ => [0x30]
  | .jcBypassProgram _ _ => [0xA0]
  | .jcBypassReset1 _ _ => [0x90]
  | .jcBypassReset2 _ _ => [0x00]
  | .jcOther _ _ d => [d]

/-- The bytes of a table word, least significant first. -/
def wordBytes : Nat → Nat → List Byte
  | 0, _ => []
  | n + 1, w => BitVec.ofNat 8 w :: wordBytes n (w / 256)

/-- The instruction the decoder reads from a table word in the state the machine is in right after reset, where the
next byte is a command byte (70_reset_and_hazards.md R351); a word that is not one byte is no instruction. The rows of
other contexts share their bytes with the command rows, and no table word tells them apart (log 16). -/
def decodeTableWord (nbits w : Nat) : Option Instr :=
  match decode Config.standard (.host .waitingForCommand false) (wordBytes (nbits / 8) w) with
  | .ok (i, []) => some i
  | _ => none

end Sys2Proof
end

