-- ==== Sys2Proof/Machine/Fetch.lean ====
section
/-! DEFINITION. What the next step of the machine is (00_scope.md R7, R8; 41_protocol_dispatcher.md R180, R181; 20_memory.md
R81): a pending event of the bench, the instruction the first byte of RX decodes to, waiting for a byte, or a stop. -/

namespace Sys2Proof.Machine

/-- What the next step does. -/
inductive Work
  /-- Run this instruction in this state, from which its byte has been taken. -/
  | run (i : Instr) (s : State)
  /-- Go to this state: a bench event, or a poll that found no byte. -/
  | go (s : State)
  | stop (f : Fault)
  | refuse (r : Refusal)
deriving DecidableEq, Repr

/-- The decoding context of the next host byte (30_encoding.md R100). -/
def State.ctx (s : State) : Ctx := .host s.control s.body.isSome

/-- The dispatcher's next step (41_protocol_dispatcher.md R181): with no byte in RX the polling loop finds nothing, and a
write body waits for its next byte (20_memory.md R81; 60_exceptions.md R327); after the handoff there is no step. -/
def State.dispatcherWork (s : State) : Work :=
  match decode s.cfg s.ctx s.rx with
  | .ok (i, rest) => .run i { s with rx := rest }
  | .error .noByte => .go s
  | .error .handedOff => .refuse .handedOff

/-- The machine's next step: a pending event of the bench first (log 13); a hung block takes no step, and only a power
cycle ends that (60_exceptions.md R326). -/
def State.nextWork (s : State) : Work :=
  match s.bench with
  | .powerCycle :: rest => .go (s.powerCycle rest)
  | .pin e :: rest =>
    if s.hung then .stop .hang
    else
      match pinAll s.cfg s.io.chips e with
      | .ok chips => .go { s with bench := rest, io := { s.io with chips := chips } }
      | .error f => .stop f
  | [] => if s.hung then .stop .hang else s.dispatcherWork

/-- The state with the bytes of a table word placed where the next step takes them: in front of RX, with no bench event
pending (log 17). -/
def State.placeWord (s : State) (nbits w : Nat) : State := { s with rx := wordBytes (nbits / 8) w ++ s.rx, bench := [] }

end Sys2Proof.Machine
end

