-- ==== Sys2Proof/Machine/Step.lean ====
section
/-! DEFINITION. One step of the machine, and the state in which a given table word is the next to be run. -/

namespace Sys2Proof.Machine

/-- One step (00_scope.md R8; 41_protocol_dispatcher.md R180). -/
def step (s : State) : Host.Outcome State Fault Refusal :=
  match s.nextWork with
  | .run i s' => exec i s'
  | .go s' => .next s'
  | .stop f => .fault f
  | .refuse r => .refused r

/-- `s` with the instruction `w` of `nbits` bits where the next step takes its instruction: at the front of RX. -/
def State.withFetchWord (s : State) (nbits w : Nat) : State := s.placeWord nbits w

end Sys2Proof.Machine
end

