-- ==== Sys2Proof/Safety.lean ====
section
/-! DEFINITION. What the statements say of states in whole-machine terms: the outcomes Blocked, Hang and HandedOff of
00_scope.md R8, the invariant every step keeps, and read mode of a chip. -/

namespace Sys2Proof

/-- Both unlock addresses of both families reach the chips' comparators, and on no lane is the first key the zero byte that
an unselected lane sees (42_chip_model.md R270, R286): so it is under the default parameters. -/
abbrev Config.KeysReach (cfg : Config) : Prop :=
  (∀ f, cfg.match1 f (cfg.busAddr (cfg.ua1 f)) = true ∧ cfg.match2 f (cfg.busAddr (cfg.ua2 f)) = true) ∧
    ∀ l, cfg.k1 l ≠ 0x00

end Sys2Proof

namespace Sys2Proof.Machine

/-- Outcome Blocked (00_scope.md R8; 60_exceptions.md R327): a write body waits for its next byte. -/
abbrev State.Blocked (s : State) : Prop :=
  s.hung = false ∧ s.bench = [] ∧ s.control = .writingChips ∧ s.body.isSome = true ∧ s.rx = []

/-- The dispatcher takes the next step, and there is a byte for it. -/
abbrev State.Ready (s : State) (b : Byte) (rest : List Byte) : Prop :=
  s.hung = false ∧ s.bench = [] ∧ s.control ≠ .handedOff ∧ s.rx = b :: rest

/-- The session registers are in the ranges the spec gives them: the field counters (10_state.md R22), a body of fewer
than 1024 bytes only inside an accepted `More` (41_protocol_dispatcher.md R230, R232), and a read cursor short of its
end (41_protocol_dispatcher.md R225) within the array (10_state.md R24; a write start may lie beyond it, log 32). A
hung step has stopped in the middle of its rule, so nothing is said of the session it leaves (log 4). -/
abbrev State.SessionOk (s : State) : Prop :=
  s.hung = false →
  (s.control ∈ [ControlState.readingChipsReadStartPos, ControlState.readingChipsReadLength,
      ControlState.writingChipsReadingStartPos] → s.cnt.toNat < 4) ∧
  (s.control = .erasePortionReadingPosLength → s.cnt.toNat < 8) ∧
  (∀ bytes, s.body = some bytes →
      s.control = .writingChips ∧ bytes.length < chunkBytes ∧ s.chunkFits = true) ∧
  (s.control = .readingChips →
      s.cursor.toNat < s.endCursor.toNat ∧ s.endCursor.toNat * chunkWords ≤ s.cfg.maxChipSize)

/-- A socket in a state the spec allows: a legal chip-model state (42_chip_model.md R282), and address registers of
`ADDR_LINES` bits (10_state.md R42; 42_chip_model.md R261). -/
abbrev Chip.Ok (cfg : Config) (c : Chip) : Prop :=
  c.legal cfg ∧ c.addr.toNat < 2 ^ cfg.addrLines ∧ c.addressLatch.toNat < 2 ^ cfg.addrLines

/-- The invariant of the machine. -/
abbrev State.Inv (s : State) : Prop :=
  s.cfg.wf ∧ s.SessionOk ∧ ∀ l : Lane, (s.io.chips.get l).Ok s.cfg

/-- A chip in read mode with no command in progress (10_state.md R45): both mode flags clear. -/
abbrev Chip.InReadMode (c : Chip) : Prop :=
  c.algState = .reading ∧ c.softwareIdActive = false ∧ c.bypassActive = false

/-- A chip that obeys the command grammar of family `f` and stands in read mode (40_flash_sequencer.md R157). -/
abbrev Chip.Listening (cfg : Config) (f : Family) (c : Chip) : Prop :=
  c.fitted = true ∧ c.family = f ∧ c.InReadMode ∧ c.legal cfg

/-- This socket settles after every program and erase (42_chip_model.md R292): no busy draw is infinite, and what an
undriven lane reads comes to rest. -/
abbrev Chip.CanSettle (c : Chip) : Prop :=
  c.noise.restless = false ∧ c.busy ≠ .forever ∧ ∀ d ∈ c.draws, d ≠ Busy.forever

/-- Every socket settles. -/
abbrev Io.CanSettle (io : Io) : Prop := ∀ l : Lane, (io.chips.get l).CanSettle

/-- The poll loop, run for ever, never sees two equal consecutive words (40_flash_sequencer.md R150; 60_exceptions.md R326). -/
def PollNeverEnds (cfg : Config) (io : Io) : Prop :=
  ∀ n, pollLoop cfg (io.memRead cfg cfg.statusAddr).1 (io.memRead cfg cfg.statusAddr).2 n = none

/-- A socket with a chip that drives its lane at every read cycle to come: not in software-ID mode, nor going back to it
(42_chip_model.md R290). -/
abbrev Chip.Drives (c : Chip) : Prop :=
  c.fitted = true ∧ c.algState ≠ .softwareId ∧ c.softwareIdActive = false

/-- `max(busy)` over the sockets (42_chip_model.md R292). -/
def longestBusy (chips : Lanes Chip) : Nat :=
  max (max chips.l0.busyReads chips.l1.busyReads) (max chips.l2.busyReads chips.l3.busyReads)

/-- The completion poll of this block always ends: it has no bound to run into, and every socket settles. -/
abbrev State.Settles (s : State) : Prop := s.cfg.maxPolls = none ∧ s.io.CanSettle

/-- The control lines as the bus leaves them between cycles (20_memory.md R65). -/
abbrev Chip.LinesIdle (c : Chip) : Prop := c.csAsserted = false ∧ c.oeAsserted = false ∧ c.weAsserted = false

/-- The state with another chip record on one lane. -/
def State.withChip (s : State) (l : Lane) (c : Chip) : State :=
  { s with io := { s.io with chips := s.io.chips.set c l } }

/-- The interfaces a sequencer operation ends with, or hangs with, have a property. -/
def SeqResult.Holds {α : Type} (P : Io → Prop) : SeqResult α → Prop
  | .done _ io => P io
  | .hang io => P io
  | .timeout => True

/-- One program cycle per word, at ascending addresses, as lane `l` of a chip of capacity `cap` takes it: each byte is
and-ed into the byte its address selects (40_flash_sequencer.md R157). -/
def programmedBy (cfg : Config) (cap : Nat) (l : Lane) : Memory → Word → List Word → Memory
  | m, _, [] => m
  | m, a, w :: ws =>
    programmedBy cfg cap l
      (m.write ((cfg.busAddr a).toNat % cap) (m.read ((cfg.busAddr a).toNat % cap) &&& lane w l)) (a + 1) ws

/-- The control states one instruction can leave, run in the state `s` (the transition table of 41_protocol_dispatcher.md
R182; the body phase taken a byte at a time, log 2). A flash cycle has no control state to change. -/
def State.controlAfter (s : State) : Instr → List ControlState
  | .readChips => [.readingChipsReadLength]
  | .readChipsAt => [.readingChipsReadStartPos]
  | .writeChips => [.writingChips]
  | .writeChipsAt => [.writingChipsReadingStartPos]
  | .erasePortion => [.erasePortionReadingPosLength]
  | .setChipMask => [.readingChipsMask]
  | .enterBootloader => [.handedOff]
  | .enterIdle | .electricalTest | .identify | .readByte | .eraseChips | .getBootloaderState | .enterProgrammer
  | .selectFamilyA | .selectFamilyB | .enableVerify | .disableVerify | .unassigned0A | .unassignedDefault _ =>
    [.waitingForCommand]
  | .fieldReadStart _ => if s.cnt = 3 then [.readingChipsReadLength] else [.readingChipsReadStartPos]
  | .fieldReadLength b =>
    if s.cnt = 3 then if (s.takeLenByte b).readRequestOk then [.readingChips] else [.waitingForCommand]
    else [.readingChipsReadLength]
  | .computerReadOK =>
    if s.endCursor.toNat ≤ (s.cursor + 1).toNat then [.waitingForCommand] else [.readingChips]
  | .computerReadCancel => [.waitingForCommand]
  | .readAckOther _ => [.readingChips]
  | .fieldWriteStart b =>
    if s.cnt = 3 then if (s.takePosByte b).writeStartOk then [.writingChips] else [.waitingForCommand]
    else [.writingChipsReadingStartPos]
  | .computerWriteMore => if s.chunkFits then [.writingChips] else [.waitingForCommand]
  | .chunkBodyByte _ =>
    if s.verify ∧ 1023 ≤ (s.body.getD []).length then [.writingChips, .waitingForCommand] else [.writingChips]
  | .computerWriteFinish | .computerWriteCancel => [.waitingForCommand]
  | .writeCtlOther _ => [.writingChips]
  | .fieldErasePosLen _ => if s.cnt = 7 then [.waitingForCommand] else [.erasePortionReadingPosLength]
  | .maskByte _ => [.waitingForCommand]
  | .jcUnlock1 _ _ | .jcResetF0 _ _ | .jcUnlock2 _ _ | .jcSoftwareId _ _ | .jcProgram _ _ | .jcEraseSetup _ _
  | .jcBypassEnter _ _ | .jcResetF0Cmd _ _ | .jcProgramData _ _ _ | .jcEraseUnlock1 _ _ | .jcEraseUnlock2 _ _
  | .jcChipErase _ _ | .jcSectorErase _ _ | .jcSectorEraseMore _ _ | .jcBypassProgram _ _ | .jcBypassReset1 _ _
  | .jcBypassReset2 _ _ | .jcOther _ _ _ => [s.control]

end Sys2Proof.Machine
end

