-- ==== Sys2Proof/Certificates/Slice0/Obligations.lean ====
section
/-! DEFINITION. The statements about the model. Each docstring names the rules of spec/ a statement formalises, or says whose
choice it states. Results are written as record updates over the starting state, so each equation is also the frame: a
field it does not name is unchanged. -/

open Sys2Proof Sys2Proof.Machine

/-! ### The machine -/

/-- O1. The state after reset (10_state.md R50; 70_reset_and_hazards.md R351). The spec takes all but two of these values as
its own decisions; the content of the chips is the model's (log 7). -/
def Obligations.ResetLeavesIdleSession : Prop :=
  State.reset.control = .waitingForCommand ∧ State.reset.family = .familyA ∧ State.reset.chipMask = 0b1111 ∧
  State.reset.verify = false ∧ State.reset.cnt = 0 ∧ State.reset.pos = 0 ∧ State.reset.len = 0 ∧
  State.reset.cursor = 0 ∧ State.reset.endCursor = 0 ∧ State.reset.body = none ∧ State.reset.hung = false ∧
  State.reset.rx = [] ∧ State.reset.io.txStream = [] ∧ State.reset.io.cycles = [] ∧
  ∀ l : Lane,
    (State.reset.io.chips.get l).InReadMode ∧ (State.reset.io.chips.get l).LinesIdle ∧
    (State.reset.io.chips.get l).batchOpen = false ∧ (State.reset.io.chips.get l).toggle = false ∧
    (State.reset.io.chips.get l).busy = .reads 0 ∧ (State.reset.io.chips.get l).addressLatch = 0 ∧
    (State.reset.io.chips.get l).dataLatch = 0 ∧ ∀ a, (State.reset.io.chips.get l).content.read a = 0xFF

/-- O2. The invariant holds after reset. -/
def Obligations.ResetSatisfiesInvariant : Prop := State.reset.Inv

/-- O3. Every step keeps the invariant: the parameters stay a legal configuration; the session registers stay in their
ranges (10_state.md R22; R24's bound on the cursors of a read, the start of a write being log 32's), but in the state a hung
step leaves, of whose session nothing is claimed (log 4); every chip keeps its content in canonical form, its address
registers within `ADDR_LINES` bits (10_state.md R42) and a legal chip-model state: the invariants of 42_chip_model.md R282,
and those the model adds (log 30), that the bypass and software-ID states hold only under their flags and `batchOpen` only
on FamilyB. What an electrical test leaves is legal because the model cuts its draws down to legal states (log 10). -/
def Obligations.EveryStepKeepsInvariant : Prop :=
  ∀ s t : State, s.Inv → step s = .next t → t.Inv

/-- O4. The step on the first byte of RX runs the instruction the byte decodes to in the present context, with that one byte
taken (41_protocol_dispatcher.md R180, R181). -/
def Obligations.StepRunsDecodedByte : Prop :=
  ∀ (s : State) (b : Byte) (rest : List Byte), s.Ready b rest →
    ∃ i : Instr, decode s.cfg s.ctx (b :: rest) = .ok (i, rest) ∧ i.wellFormed s.cfg s.ctx = true ∧
      step s = exec i { s with rx := rest }

/-- O5. Bytes written out from the tables of 30_encoding.md decode to the rows they stand for, by context
(95_test_vectors.md 2.2, 2.7). -/
def Obligations.WrittenOutBytesDecode : Prop :=
  decode Config.standard (.host .waitingForCommand false) [0x05] = .ok (.eraseChips, []) ∧
  decode Config.standard (.host .waitingForCommand false) [0x01] = .ok (.electricalTest, []) ∧
  decode Config.standard (.host .waitingForCommand false) [0x7F] = .ok (.unassignedDefault 0x7F, []) ∧
  decode Config.standard (.host .readingChips false) [0x01] = .ok (.computerReadCancel, []) ∧
  decode Config.standard (.host .writingChips false) [0x01] = .ok (.computerWriteFinish, []) ∧
  decode Config.standard (.host .writingChips true) [0x01] = .ok (.chunkBodyByte 0x01, []) ∧
  decode Config.standard (.host .readingChipsMask false) [0x05, 0x00] = .ok (.maskByte 0x05, [0x00]) ∧
  decode Config.standard (.lane 2 .familyA .reading false 0x00155555) [0xAA] = .ok (.jcUnlock1 2 0x00155555, []) ∧
  decode Config.standard (.lane 0 .familyB .reading false 0x00155555) [0xAA] = .ok (.jcOther 0 0x00155555 0xAA, []) ∧
  decode Config.standard (.lane 3 .familyB .readingStatus true 0x00030000) [0x30] =
    .ok (.jcSectorEraseMore 3 0x00030000, [])

/-- O6. Decoding the encoding of a well-formed instruction gives the instruction back, whatever bytes follow, for every
instruction, every operand and every configuration whose codes are distinct within each set expected in one state
(00_scope.md R9, last constraint). -/
def Obligations.DecodeOfEncodeIsTheInstruction : Prop :=
  ∀ (cfg : Config) (ctx : Ctx) (i : Instr) (rest : List Byte), cfg.codesDistinct → i.wellFormed cfg ctx = true →
    decode cfg ctx (encode cfg i ++ rest) = .ok (i, rest)

/-- O7. Every byte, in every context but `HandedOff`, is exactly one instruction: it decodes to a well-formed one whose
encoding is that byte, and, where the codes are distinct, to no other (30_encoding.md R102; 41_protocol_dispatcher.md R181). -/
def Obligations.EveryByteIsExactlyOneInstruction : Prop :=
  ∀ (cfg : Config) (ctx : Ctx) (b : Byte) (rest : List Byte),
    (∀ inBody, ctx ≠ .host .handedOff inBody) →
    ∃ i : Instr, decode cfg ctx (b :: rest) = .ok (i, rest) ∧ i.wellFormed cfg ctx = true ∧ encode cfg i = [b] ∧
      (cfg.codesDistinct → ∀ j : Instr, j.wellFormed cfg ctx = true → encode cfg j = [b] → j = i)

/-- O8. The transition table of the control state (41_protocol_dispatcher.md R182), with the write body taken one byte a
step (the model's choice, log 2). -/
def Obligations.ControlStateFollowsTransitionTable : Prop :=
  ∀ (s t : State) (b : Byte) (rest : List Byte) (i : Instr), s.Ready b rest → decode s.cfg s.ctx s.rx = .ok (i, rest) →
    exec i { s with rx := rest } = .next t → t.hung = false → t.control ∈ s.controlAfter i

/-- O9. Nothing about a step depends on how the bytes were grouped in time: bytes that arrive later change nothing but the
end of RX (41_protocol_dispatcher.md R180). -/
def Obligations.StepIgnoresLaterBytes : Prop :=
  ∀ (s t : State) (b : Byte) (rest more : List Byte), s.Ready b rest → step s = .next t →
    step { s with rx := s.rx ++ more } = .next { t with rx := t.rx ++ more }

/-- O10. A write body that waits for a byte changes nothing while none is there, and the next byte to arrive, whatever its
value, is its data (60_exceptions.md R327; 41_protocol_dispatcher.md R232). That waiting is a step to the same state is
the model's form of the outcome Blocked (log 3). -/
def Obligations.BlockedBodyWaitsAndResumes : Prop :=
  ∀ (s : State) (b : Byte) (rest : List Byte), s.Blocked →
    step s = .next s ∧ step { s with rx := b :: rest } = exec (.chunkBodyByte b) { s with rx := rest }

/-- O11. After a hang there is no step, and after the bootloader handoff no step and no byte taken (60_exceptions.md R326;
41_protocol_dispatcher.md R205; 93_implementation_defined.md U2, U4). -/
def Obligations.NoStepAfterHangOrHandoff : Prop :=
  ∀ s : State, s.bench = [] →
    (s.hung = true → step s = .fault .hang) ∧
    (s.hung = false → s.control = .handedOff → step s = .refused .handedOff)

/-- O12. A power cycle of the programmer: the flash chips keep what they hold, the session, the family register and the
streams take their reset values (70_reset_and_hazards.md R350, from general knowledge there). -/
def Obligations.PowerCycleKeepsFlashOnly : Prop :=
  ∀ (s : State) (rest : List BenchEvent), s.bench = .powerCycle :: rest →
    ∃ t : State, step s = .next t ∧ t.cfg = s.cfg ∧ t.io.chips = s.io.chips ∧ t.control = .waitingForCommand ∧
      t.family = .familyA ∧ t.chipMask = s.cfg.chipMaskReset ∧ t.verify = s.cfg.verifyReset ∧ t.cnt = 0 ∧ t.pos = 0 ∧
      t.len = 0 ∧ t.cursor = 0 ∧ t.endCursor = 0 ∧ t.body = none ∧ t.hung = false ∧ t.rx = [] ∧ t.io.trace = [] ∧
      t.bench = rest

/-- O13. Each of the three registers that configure later operations is written by its own commands only, and no
instruction writes the parameters (10_state.md R28). -/
def Obligations.ConfigRegistersHaveOwnCommands : Prop :=
  ∀ (i : Instr) (s t : State), exec i s = .next t →
    t.cfg = s.cfg ∧
    t.family = (if i = .selectFamilyA then .familyA else if i = .selectFamilyB then .familyB else s.family) ∧
    t.verify = (if i = .enableVerify then true else if i = .disableVerify then false else s.verify) ∧
    t.chipMask =
      (match i with
        | .maskByte b => if b.toNat ≤ 15 then b.setWidth 4 else s.chipMask
        | _ => s.chipMask)

/-- O14. `raise`: the reply byte of the exit is appended, the session is idle, nothing else is recorded and no bus cycle
happens (60_exceptions.md R321). The table there lists OK, flush, Error for `EraseFailed`: the OK and the flush came before,
when the request was accepted (41_protocol_dispatcher.md R240), and `raise` appends the Error alone. The verify byte carries
the failure mask bit-reversed, bits 6 to 4 clear (30_encoding.md R114). The values are the default codes, which the spec
takes from general knowledge. -/
def Obligations.ErrorExitsReplyAndGoIdle : Prop :=
  (∀ (s : State) (e : ErrorExit),
    s.raise e = { s with io := s.io.tx (e.reply s.cfg.reply), control := .waitingForCommand } ∧
    (s.raise e).io.cycles = s.io.cycles ∧ (s.raise e).io.chips = s.io.chips) ∧
  ErrorExit.invalidCommand.reply defaultReplies = [0x02] ∧ ErrorExit.maskRefused.reply defaultReplies = [0x01] ∧
  ErrorExit.readRefused.reply defaultReplies = [0x01] ∧ ErrorExit.writeRefused.reply defaultReplies = [0x01] ∧
  ErrorExit.eraseRefused.reply defaultReplies = [0x01] ∧ ErrorExit.eraseFailed.reply defaultReplies = [0x01] ∧
  ∀ m : Mask, ∃ v : Byte, (ErrorExit.verifyFailed m).reply defaultReplies = [v] ∧ v.getLsbD 7 = true ∧
    v.getLsbD 6 = false ∧ v.getLsbD 5 = false ∧ v.getLsbD 4 = false ∧
    ∀ l : Lane, v.getLsbD (3 - l.val) = m.getLsbD l.val

/-! ### The commands -/

/-- O15. `ENTER_IDLE` (41_protocol_dispatcher.md R200), `ENTER_PROGRAMMER` (R206) and `GET_BOOTLOADER_STATE` (R204): the
reply, idle, and nothing else. -/
def Obligations.ImmediateCommandsReply : Prop :=
  ∀ s : State,
    exec .enterIdle s =
      .next { s with io := s.io.tx [s.cfg.reply.ok], control := .waitingForCommand } ∧
    exec .enterProgrammer s =
      .next { s with io := s.io.tx [s.cfg.reply.ok], control := .waitingForCommand } ∧
    exec .getBootloaderState s =
      .next { s with io := s.io.tx [s.cfg.reply.ok, s.cfg.reply.bootloaderInProgrammer],
                     control := .waitingForCommand }

/-- O16. `READ_BYTE` (41_protocol_dispatcher.md R216) and every unassigned command byte (R217; 30_encoding.md R102) are
answered Invalid, and have no other effect. -/
def Obligations.InvalidCommandsReplyInvalid : Prop :=
  ∀ (s : State) (b : Byte),
    exec .readByte s =
      .next { s with io := s.io.tx [s.cfg.reply.invalid], control := .waitingForCommand } ∧
    exec .unassigned0A s =
      .next { s with io := s.io.tx [s.cfg.reply.invalid], control := .waitingForCommand } ∧
    exec (.unassignedDefault b) s =
      .next { s with io := s.io.tx [s.cfg.reply.invalid], control := .waitingForCommand }

/-- O17. `ELECTRICAL_TEST` (41_protocol_dispatcher.md R201): OK, flush, three bytes per reported pair in the order given,
Done, idle, for whatever list the routine reports and whatever it leaves of the chips; where the harness supplies the
result, that list is reported. How the result is drawn, with the fields `etest` and `freeCount`, is the model's own
(log 10). -/
def Obligations.ElectricalTestReportsEveryPair : Prop :=
  ∀ s : State, ∃ (fails : List (Byte × Byte)) (chips : Lanes Chip) (etest : List ElectricalResult) (n : Nat),
    exec .electricalTest s =
      .next { s with
        control := .waitingForCommand, etest := etest, freeCount := n,
        io := { chips := chips,
                trace := s.io.trace ++ [.tx s.cfg.reply.ok, .flush] ++
                  fails.flatMap (fun p => [.tx s.cfg.reply.electricalTestFail, .tx p.1, .tx p.2]) ++
                  [.tx s.cfg.reply.electricalTestDone] } } ∧
    (∀ r rest, s.etest = r :: rest →
      fails = r.fails ∧ etest = rest ∧ n = s.freeCount ∧ (r.touched = none → chips = s.io.chips))

/-- O18. `IDENTIFY` (41_protocol_dispatcher.md R215; 40_flash_sequencer.md R145): OK; unlock of all chips, 0x90 at unlock
address 1, the two identity reads, 0xF0; then the eight identity bytes, chip index 0 (lane 3) first and the manufacturer
before the device, and Done. The chip mask plays no part. That chip index 0 is lane 3 is the resolution of
90_conflicts.md C1 (log 25), and the manufacturer before the device the spec's own choice (30_encoding.md R111). -/
def Obligations.IdentifyCyclesAndReply : Prop :=
  ∀ s : State,
    let io1 := (((s.io.tx [s.cfg.reply.ok]).memWrite s.cfg (s.cfg.ua1 s.family) s.cfg.key1).memWrite s.cfg
      (s.cfg.ua2 s.family) s.cfg.key2).memWrite s.cfg (s.cfg.ua1 s.family) (rep 0x90)
    let mfr := io1.memRead s.cfg mfrAddr
    let dev := mfr.2.memRead s.cfg (s.cfg.devAddr s.family)
    exec .identify s =
      .next { s with
        control := .waitingForCommand,
        io := (dev.2.memWrite s.cfg s.cfg.idExitAddr (rep 0xF0)).tx
          [lane mfr.1 3, lane dev.1 3, lane mfr.1 2, lane dev.1 2, lane mfr.1 1, lane dev.1 1, lane mfr.1 0,
           lane dev.1 0, s.cfg.reply.identifyDone] }

/-- O19. `IDENTIFY` over four chips of the selected family in read mode, under the default parameters, answers their own
identity bytes, chip index 0 first, and leaves them in read mode with their content unchanged (40_flash_sequencer.md R145,
R156; 42_chip_model.md R290). -/
def Obligations.IdentifyAnswersTheChipsOwnBytes : Prop :=
  ∀ s : State, s.cfg = Config.standard → (∀ l : Lane, (s.io.chips.get l).Listening s.cfg s.family) →
    ∃ t : State, exec .identify s = .next t ∧
      t.io.txStream = s.io.txStream ++
        ([0x00, s.io.chips.l3.mfrId, s.io.chips.l3.devId, s.io.chips.l2.mfrId, s.io.chips.l2.devId,
          s.io.chips.l1.mfrId, s.io.chips.l1.devId, s.io.chips.l0.mfrId, s.io.chips.l0.devId, 0x00] : List Byte).map
          TxItem.byte ∧
      ∀ l : Lane, (t.io.chips.get l).InReadMode ∧ (t.io.chips.get l).content = (s.io.chips.get l).content

/-- O20. The commands that open a transaction: `READ_CHIPS` (41_protocol_dispatcher.md R202), `READ_CHIPS_AT` (R203),
`WRITE_CHIPS` (R208), `WRITE_CHIPS_AT` (R209), `ERASE_PORTION` (R213), `SET_CHIP_MASK` (R214). -/
def Obligations.OpeningCommandsEnterTheirState : Prop :=
  ∀ s : State,
    exec .readChips s =
      .next { s with pos := 0, len := 0, cnt := 0, io := s.io.tx [s.cfg.reply.ok], control := .readingChipsReadLength } ∧
    exec .readChipsAt s =
      .next { s with pos := 0, len := 0, cnt := 0, io := s.io.tx [s.cfg.reply.ok],
                     control := .readingChipsReadStartPos } ∧
    exec .writeChips s =
      .next { s with cursor := 0, io := s.io.tx [s.cfg.reply.ok], control := .writingChips } ∧
    exec .writeChipsAt s =
      .next { s with pos := 0, cnt := 0, io := s.io.tx [s.cfg.reply.ok], control := .writingChipsReadingStartPos } ∧
    exec .erasePortion s =
      .next { s with pos := 0, len := 0, cnt := 0, io := s.io.tx [s.cfg.reply.ok],
                     control := .erasePortionReadingPosLength } ∧
    exec .setChipMask s =
      .next { s with io := s.io.tx [s.cfg.reply.ok], control := .readingChipsMask }

/-- O21. `ENTER_BOOTLOADER` (41_protocol_dispatcher.md R205): OK, flush, `HandedOff`; there no byte is an instruction, and no
step is taken (said by the refusal `handedOff`, log 6). -/
def Obligations.EnterBootloaderHandsOff : Prop :=
  ∀ s : State, ∃ t : State,
    exec .enterBootloader s = .next t ∧
    t = { s with io := { s.io with trace := s.io.trace ++ [.tx s.cfg.reply.ok, .flush] }, control := .handedOff } ∧
    (∀ (inBody : Bool) (bytes : List Byte), decode s.cfg (.host .handedOff inBody) bytes = .error .handedOff) ∧
    (s.bench = [] → s.hung = false → step t = .refused .handedOff)

/-- O22. `SELECT_FAMILY_A` (41_protocol_dispatcher.md R210), `SELECT_FAMILY_B` (R218), `ENABLE_VERIFY` (R211) and
`DISABLE_VERIFY` (R212): the register, OK, idle, and no bus cycle. -/
def Obligations.SelectionCommandsWriteTheirRegister : Prop :=
  ∀ s : State,
    exec .selectFamilyA s =
      .next { s with family := .familyA, io := s.io.tx [s.cfg.reply.ok], control := .waitingForCommand } ∧
    exec .selectFamilyB s =
      .next { s with family := .familyB, io := s.io.tx [s.cfg.reply.ok], control := .waitingForCommand } ∧
    exec .enableVerify s =
      .next { s with verify := true, io := s.io.tx [s.cfg.reply.ok], control := .waitingForCommand } ∧
    exec .disableVerify s =
      .next { s with verify := false, io := s.io.tx [s.cfg.reply.ok], control := .waitingForCommand }

/-- O23. The mask byte (41_protocol_dispatcher.md R250): at most 0b1111, it becomes the chip mask; above, it is refused and
the mask stays. Either way the block is idle. -/
def Obligations.MaskByteSetsMaskOrIsRefused : Prop :=
  ∀ (b : Byte) (s : State),
    exec (.maskByte b) s =
      if b.toNat ≤ 0b1111 then
        .next { s with chipMask := b.extractLsb' 0 4, io := s.io.tx [s.cfg.reply.ok], control := .waitingForCommand }
      else .next { s with io := s.io.tx [s.cfg.reply.error], control := .waitingForCommand }

/-! ### Fields, reads, writes -/

/-- O24. A field byte in `ReadingChipsReadStartPos` (41_protocol_dispatcher.md R220; the reply after the fourth byte is the
spec's own choice). -/
def Obligations.ReadStartFieldAccumulates : Prop :=
  ∀ (b : Byte) (s : State),
    exec (.fieldReadStart b) s =
      if s.cnt = 3 then
        .next { s with pos := s.pos ||| (b.setWidth 32 <<< (8 * s.cnt.toNat)), cnt := 0, len := 0,
                       io := s.io.tx [s.cfg.reply.readOK], control := .readingChipsReadLength }
      else .next { s with pos := s.pos ||| (b.setWidth 32 <<< (8 * s.cnt.toNat)), cnt := s.cnt + 1 }

/-- O25. A field byte in `ReadingChipsReadLength` (41_protocol_dispatcher.md R221, R224; the zero-length and capacity tests
are the spec's own choice): collected; refused, with no bus cycle; or accepted, with the cursors set and the first chunk,
256 words read in ascending order, sent lane 3 first. The count left at 4 is log 21's. -/
def Obligations.ReadLengthFieldStartsOrRefuses : Prop :=
  ∀ (b : Byte) (s : State),
    let n := s.len ||| (b.setWidth 32 <<< (8 * s.cnt.toNat))
    let chunk := (s.io.tx [s.cfg.reply.readOK]).burstRead s.cfg (BitVec.ofNat 32 (s.pos.toNat / 1024) * 256) 256
    exec (.fieldReadLength b) s =
      if s.cnt ≠ 3 then .next { s with len := n, cnt := s.cnt + 1 }
      else if n = 0 ∨ n.toNat % 1024 ≠ 0 ∨ s.pos.toNat % 1024 ≠ 0 ∨ 4 * s.cfg.maxChipSize < s.pos.toNat + n.toNat then
        .next { s with len := n, cnt := 4, io := s.io.tx [s.cfg.reply.readError], control := .waitingForCommand }
      else
        .next { s with len := n, cnt := 4, cursor := BitVec.ofNat 32 (s.pos.toNat / 1024),
                       endCursor := BitVec.ofNat 32 ((s.pos.toNat + n.toNat) / 1024), control := .readingChips,
                       io := chunk.2.tx (chunk.1.flatMap (fun w => [lane w 3, lane w 2, lane w 1, lane w 0])) }

/-- O26. A field byte in `WritingChipsReadingStartPos` (41_protocol_dispatcher.md R222): collected; refused where the start
is no whole chunk; or accepted, at any height (log 32). The count left at 4 is log 21's. -/
def Obligations.WriteStartFieldOpensOrRefuses : Prop :=
  ∀ (b : Byte) (s : State),
    let p := s.pos ||| (b.setWidth 32 <<< (8 * s.cnt.toNat))
    exec (.fieldWriteStart b) s =
      if s.cnt ≠ 3 then .next { s with pos := p, cnt := s.cnt + 1 }
      else if p.toNat % 1024 ≠ 0 then
        .next { s with pos := p, cnt := 4, io := s.io.tx [s.cfg.reply.writeError], control := .waitingForCommand }
      else
        .next { s with pos := p, cnt := 4, cursor := BitVec.ofNat 32 (p.toNat / 1024), io := s.io.tx [s.cfg.reply.writeOK],
                       control := .writingChips }

/-- O27. A field byte in `ErasePortionReadingPosLength` that does not complete the payload, or completes a bad one
(41_protocol_dispatcher.md R240): collected into the position, then the length; or refused with no bus cycle, the sum of
position and length taken as a natural number (R183). The count left at 8 is log 21's. -/
def Obligations.EraseFieldCollectsOrRefuses : Prop :=
  ∀ (b : Byte) (s : State), (s.takeEraseByte b).eraseRequestOk = false ∨ s.cnt ≠ 7 →
    let p := if s.cnt.toNat < 4 then s.pos ||| (b.setWidth 32 <<< (8 * s.cnt.toNat)) else s.pos
    let n := if s.cnt.toNat < 4 then s.len else s.len ||| (b.setWidth 32 <<< (8 * (s.cnt.toNat - 4)))
    ((s.takeEraseByte b).eraseRequestOk = true ↔
      p.toNat % s.cfg.eraseGranule = 0 ∧ n.toNat % s.cfg.eraseGranule = 0 ∧
        p.toNat + n.toNat ≤ 4 * s.cfg.cap s.family) ∧
    exec (.fieldErasePosLen b) s =
      if s.cnt ≠ 7 then .next { s with pos := p, len := n, cnt := s.cnt + 1 }
      else
        .next { s with pos := p, len := n, cnt := 8, io := s.io.tx [s.cfg.reply.erasePortionError],
                       control := .waitingForCommand }

/-- O28. The last byte of a good erase-portion payload (41_protocol_dispatcher.md R240): OK and flush, then `eraseSectors`
over a quarter of position and length. Where every chip settles, Finished and idle: under the constraints on
`ERASE_GRANULE` (00_scope.md R9) the sequencer never refuses. Where a poll never ends, the step leaves the block hung
with the OK and the flush sent and no other reply (60_exceptions.md R326; the form of the hung state is log 4's). The count
left at 8 is log 21's. -/
def Obligations.ErasePortionErasesAndFinishes : Prop :=
  ∀ (b : Byte) (s : State), s.cfg.wf → s.cnt = 7 → (s.takeEraseByte b).eraseRequestOk = true →
    let erase := seqEraseSectors s.cfg s.family s.chipMask ((s.io.tx [s.cfg.reply.erasePortionOK]).flush)
      (BitVec.ofNat 32 (s.pos.toNat / 4)) (BitVec.ofNat 32 ((s.takeEraseByte b).len.toNat / 4))
    (s.Settles → ∃ io : Io,
      erase = .done true io ∧
      exec (.fieldErasePosLen b) s =
        .next { s with len := (s.takeEraseByte b).len, cnt := 8, io := io.tx [s.cfg.reply.erasePortionFinished],
                       control := .waitingForCommand }) ∧
    ∀ io : Io, erase = .hang io →
      exec (.fieldErasePosLen b) s =
        .next { s with len := (s.takeEraseByte b).len, cnt := 8, io := io, hung := true } ∧
      PollNeverEnds s.cfg io ∧
      io.txStream = s.io.txStream ++ [.byte s.cfg.reply.erasePortionOK, .flush]

/-- O29. `ComputerReadOK` (41_protocol_dispatcher.md R225, R224): the cursor advances; at the end Finished and idle, before
it MoreData and the next chunk of 256 words. -/
def Obligations.ReadAckSendsNextChunkOrFinishes : Prop :=
  ∀ s : State,
    let chunk := (s.io.tx [s.cfg.reply.readMoreData]).burstRead s.cfg ((s.cursor + 1) * 256) 256
    exec .computerReadOK s =
      if s.endCursor.toNat ≤ (s.cursor + 1).toNat then
        .next { s with cursor := s.cursor + 1, io := s.io.tx [s.cfg.reply.readFinished], control := .waitingForCommand }
      else
        .next { s with cursor := s.cursor + 1,
                       io := chunk.2.tx (chunk.1.flatMap (fun w => [lane w 3, lane w 2, lane w 1, lane w 0])) }

/-- O30. `ComputerReadCancel` (41_protocol_dispatcher.md R226), `ComputerWriteFinish` (R236) and `ComputerWriteCancel` (R237):
the reply and idle, with no bus activity. -/
def Obligations.CancelAndFinishReplyAndGoIdle : Prop :=
  ∀ s : State,
    exec .computerReadCancel s =
      .next { s with io := s.io.tx [s.cfg.reply.readConfirmCancel], control := .waitingForCommand } ∧
    exec .computerWriteFinish s =
      .next { s with io := s.io.tx [s.cfg.reply.writeOK], control := .waitingForCommand } ∧
    exec .computerWriteCancel s =
      .next { s with io := s.io.tx [s.cfg.reply.writeConfirmCancel], control := .waitingForCommand }

/-- O31. Any other acknowledgement or control byte is ignored: no reply, no state change, no bus cycle
(41_protocol_dispatcher.md R227, R238). -/
def Obligations.OtherAcknowledgementsAreIgnored : Prop :=
  ∀ (b : Byte) (s : State), exec (.readAckOther b) s = .next s ∧ exec (.writeCtlOther b) s = .next s

/-- O32. `ComputerWriteMore` (41_protocol_dispatcher.md R231; the formula of the capacity test is the spec's own choice):
with room left, OK and the body phase with nothing drained yet; without, refused. The body register is the model's
(log 2). -/
def Obligations.WriteMoreOpensBodyOrRefuses : Prop :=
  ∀ s : State,
    exec .computerWriteMore s =
      if s.cfg.maxChipSize < (s.cursor.toNat + 1) * 256 then
        .next { s with io := s.io.tx [s.cfg.reply.writeError], control := .waitingForCommand }
      else .next { s with io := s.io.tx [s.cfg.reply.writeOK], body := some [] }

/-- O33. A body byte before the last is stored and nothing else happens: no byte is interpreted, no reply is sent
(41_protocol_dispatcher.md R232; byte by byte, log 2). -/
def Obligations.BodyByteIsStored : Prop :=
  ∀ (b : Byte) (s : State) (bytes : List Byte), s.body = some bytes → bytes.length < 1023 →
    exec (.chunkBodyByte b) s = .next { s with body := some (bytes ++ [b]) }

/-- O34. The last body byte (41_protocol_dispatcher.md R233, R234, R235): the chunk is programmed by `writeAll` if all chips
are selected and by `writeSome` if not. Where every chip settles, with verify on the region is read back, and a mismatch on
a selected lane ends the transaction with the error byte, the cursor unchanged; otherwise OK, and the cursor advances. Where
a poll never ends, the step leaves the block hung and appends no reply (60_exceptions.md R326; the form of the hung state is
log 4's). One byte a step is log 2's. -/
def Obligations.LastBodyByteProgramsAndVerifies : Prop :=
  ∀ (b : Byte) (s : State) (bytes : List Byte), s.body = some bytes → bytes.length = 1023 →
    let program :=
      if s.chipMask = 0b1111 then seqWriteAll s.cfg s.family s.io (s.cursor * 256) (packWords (bytes ++ [b]))
      else seqWriteSome s.cfg s.family s.chipMask s.io (s.cursor * 256) (packWords (bytes ++ [b]))
    (s.Settles → ∃ io : Io,
      program = .done () io ∧
      let back := io.burstRead s.cfg (s.cursor * 256) 256
      let fails := failMask s.chipMask back.1 (packWords (bytes ++ [b]))
      exec (.chunkBodyByte b) s =
        if s.verify = false then
          .next { s with body := none, cursor := s.cursor + 1, io := io.tx [s.cfg.reply.writeOK] }
        else if fails = 0 then
          .next { s with body := none, cursor := s.cursor + 1, io := back.2.tx [s.cfg.reply.writeOK] }
        else
          .next { s with body := none, control := .waitingForCommand,
                         io := back.2.tx [s.cfg.reply.writeVerifyError ||| (rev4 fails).setWidth 8] }) ∧
    ∀ io : Io, program = .hang io →
      exec (.chunkBodyByte b) s = .next { s with body := none, io := io, hung := true } ∧
      PollNeverEnds s.cfg io ∧ io.txStream = s.io.txStream

/-- O35. The step of an accepted `More` takes exactly 1024 bytes from RX, whatever they are (41_protocol_dispatcher.md R230,
R231, R232): in the model's steps, the control byte and then 1024 body bytes come to the completion of the body (log 2). -/
def Obligations.BodyPhaseDrainsExactly1024Bytes : Prop :=
  ∀ (s : State) (body rest : List Byte), s.hung = false → s.bench = [] →
    s.control = .writingChips → s.body = none → s.chunkFits = true → body.length = 1024 →
    s.rx = s.cfg.ack.writeMore :: (body ++ rest) →
    core.run 1025 s =
      State.completeBody { s with rx := rest, io := s.io.tx [s.cfg.reply.writeOK], body := some (body.take 1023) } body

/-- O36. Bit `L` of the failure mask says that lane `L` is selected and some read-back word differs from the written word on
it (41_protocol_dispatcher.md R234). -/
def Obligations.FailureMaskNamesMismatchingLanes : Prop :=
  ∀ (m : Mask) (back words : List Word) (l : Lane), back.length = words.length →
    ((failMask m back words).getLsbD l.val = true ↔
      m.getLsbD l.val = true ∧
        ∃ (i : Nat) (v w : Word), back[i]? = some v ∧ words[i]? = some w ∧ lane v l ≠ lane w l)

/-- O37. `ERASE_CHIPS` (41_protocol_dispatcher.md R207): the six write cycles of 40_flash_sequencer.md R146 to the selected
chips and then the poll. Where every chip settles, at least two reads of the status address, and OK only after `eraseAll`
has returned. Where the poll never ends, the step leaves the block hung after the six cycles and appends no reply
(60_exceptions.md R326; the form of the hung state is log 4's). -/
def Obligations.EraseChipsRepliesAfterTheErase : Prop :=
  ∀ s : State,
    let lm := laneMask s.chipMask
    let cycles : List (Word × Word) :=
      [(s.cfg.ua1 s.family, s.cfg.key1 &&& lm), (s.cfg.ua2 s.family, s.cfg.key2 &&& lm),
       (s.cfg.ua1 s.family, rep 0x80 &&& lm), (s.cfg.ua1 s.family, s.cfg.key1 &&& lm),
       (s.cfg.ua2 s.family, s.cfg.key2 &&& lm), (s.cfg.ua1 s.family, rep 0x10 &&& lm)]
    let polled := cycles.foldl (fun io c => io.memWrite s.cfg c.1 c.2) s.io
    (s.Settles → ∃ (io : Io) (words : List Word), 2 ≤ words.length ∧
      exec .eraseChips s = .next { s with io := io.tx [s.cfg.reply.ok], control := .waitingForCommand } ∧
      seqEraseAll s.cfg s.family s.chipMask s.io = .done () io ∧
      io.trace = s.io.trace ++ cycles.map (fun c => IoEvent.write c.1 c.2) ++
        words.map (fun w => IoEvent.read s.cfg.statusAddr w)) ∧
    (s.cfg.maxPolls = none → PollNeverEnds s.cfg polled →
      exec .eraseChips s = .next { s with io := polled, hung := true } ∧ polled.txStream = s.io.txStream)

/-- O38. The bytes of a chunk and its words: packing and unpacking undo each other (20_memory.md R68, the spec's own choice of
order); a scalar field of four bytes, first byte least significant, is their `le32` and their positional sum, in each of
the accumulators: start, length, and the position and the length of an erase portion (10_state.md R23; 30_encoding.md
R104). -/
def Obligations.LinkByteOrders : Prop :=
  (∀ ws : List Word, packWords (unpackWords ws) = ws) ∧
  (∀ bytes : List Byte, bytes.length % 4 = 0 → unpackWords (packWords bytes) = bytes) ∧
  (∀ (s : State) (b0 b1 b2 b3 : Byte), s.pos = 0 → s.cnt = 0 →
    ([b0, b1, b2, b3].foldl State.takePosByte s).pos = le32 b0 b1 b2 b3) ∧
  (∀ (s : State) (b0 b1 b2 b3 : Byte), s.len = 0 → s.cnt = 0 →
    ([b0, b1, b2, b3].foldl State.takeLenByte s).len = le32 b0 b1 b2 b3) ∧
  (∀ (s : State) (b0 b1 b2 b3 b4 b5 b6 b7 : Byte), s.pos = 0 → s.len = 0 → s.cnt = 0 →
    ([b0, b1, b2, b3, b4, b5, b6, b7].foldl State.takeEraseByte s).pos = le32 b0 b1 b2 b3 ∧
    ([b0, b1, b2, b3, b4, b5, b6, b7].foldl State.takeEraseByte s).len = le32 b4 b5 b6 b7) ∧
  ∀ b0 b1 b2 b3 : Byte,
    (le32 b0 b1 b2 b3).toNat = b0.toNat + 256 * b1.toNat + 65536 * b2.toNat + 16777216 * b3.toNat

/-! ### The flash command cycles -/

/-- O39. The two unlock pairs, and a write that matches no row (42_chip_model.md R271, R272, R275, R276, R270, R279): the key
at a matching address moves the grammar on, at any other it falls back; an unmatched write falls back, and ends a status
state. That a row run in another chip state than its own does the same is the model's choice (log 18), and that a lane
without a chip changes nothing too (log 8). -/
def Obligations.UnlockRowsMoveOrFallBack : Prop :=
  ∀ (l : Lane) (a : Word) (d : Byte) (s : State),
    let c := s.io.chips.get l
    if c.fitted = false then
      exec (.jcUnlock1 l a) s = .next s ∧ exec (.jcUnlock2 l a) s = .next s ∧ exec (.jcEraseUnlock1 l a) s = .next s ∧
      exec (.jcEraseUnlock2 l a) s = .next s ∧ exec (.jcOther l a d) s = .next s
    else
      exec (.jcUnlock1 l a) s =
        .next (s.withChip l { c with algState := if s.cfg.match1 c.family a then .unlocking else c.idle }) ∧
      exec (.jcUnlock2 l a) s =
        .next (s.withChip l { c with algState := if s.cfg.match2 c.family a then .waitingForCommand else c.idle }) ∧
      exec (.jcEraseUnlock1 l a) s =
        .next (s.withChip l { c with algState := if s.cfg.match1 c.family a then .eraseUnlocking2 else c.idle }) ∧
      exec (.jcEraseUnlock2 l a) s =
        .next (s.withChip l
          { c with algState := if s.cfg.match2 c.family a then .eraseWaitingForCommand else c.idle }) ∧
      exec (.jcOther l a d) s =
        .next (s.withChip l
          (if c.algState = .readingStatus then { c with busy := .reads 0, batchOpen := false, algState := c.idle }
            else { c with algState := c.idle }))

/-- O40. The commands after an unlock (42_chip_model.md R273) and the 0xF0 exit in read mode (R271). The effect in another
chip state than the row's is the model's choice (log 18), and that of an empty lane too (log 8). -/
def Obligations.CommandRowsTakeTheirCommand : Prop :=
  ∀ (l : Lane) (a : Word) (s : State),
    let c := s.io.chips.get l
    if c.fitted = false then
      exec (.jcSoftwareId l a) s = .next s ∧ exec (.jcProgram l a) s = .next s ∧ exec (.jcEraseSetup l a) s = .next s ∧
      exec (.jcBypassEnter l a) s = .next s ∧ exec (.jcResetF0Cmd l a) s = .next s ∧ exec (.jcResetF0 l a) s = .next s
    else
      exec (.jcSoftwareId l a) s =
        .next (s.withChip l
          (if s.cfg.match1 c.family a then { c with softwareIdActive := true, algState := .softwareId }
            else { c with algState := c.idle })) ∧
      exec (.jcProgram l a) s =
        .next (s.withChip l { c with algState := if s.cfg.match1 c.family a then .programmingByte else c.idle }) ∧
      exec (.jcEraseSetup l a) s =
        .next (s.withChip l { c with algState := if s.cfg.match1 c.family a then .eraseUnlocking1 else c.idle }) ∧
      exec (.jcBypassEnter l a) s =
        .next (s.withChip l
          (if s.cfg.match1 c.family a ∧ c.family = .familyB then
            { c with bypassActive := true, algState := .unlockBypass }
            else { c with algState := c.idle })) ∧
      exec (.jcResetF0Cmd l a) s = .next (s.withChip l { c with softwareIdActive := false, algState := .reading }) ∧
      exec (.jcResetF0 l a) s = .next (s.withChip l { c with softwareIdActive := false, algState := .reading })

/-- O41. The data cycle (42_chip_model.md R274): the byte is and-ed into the content byte the address selects, every other
content byte reads as before, a busy draw is taken, and the chip reads status. The list the draws come from is the model's
(log 9), and so are the effect in another chip state than the row's (log 18) and that of an empty lane (log 8). -/
def Obligations.ProgramDataAndsIntoContent : Prop :=
  ∀ (l : Lane) (a : Word) (d : Byte) (s : State),
    let c := s.io.chips.get l
    c.legal s.cfg →
    if c.fitted = false then exec (.jcProgramData l a d) s = .next s
    else
      ∃ content : Memory,
        exec (.jcProgramData l a d) s =
          .next (s.withChip l
            { c with content := content, busy := c.draws.headD (.reads 0), draws := c.draws.tail, toggle := false,
                     algState := .readingStatus }) ∧
        ∀ x, content.read x =
          if x = a.toNat % s.cfg.cap c.family then c.content.read x &&& d else c.content.read x

/-- O42. The erase commits (42_chip_model.md R277, R278, R279): the whole array at the unlock address; the sector of the
address; a further sector of an open FamilyB batch. Every byte of the target reads 0xFF afterwards, every other byte as
before; where the row's condition fails the chip falls back. The list the draws come from is the model's (log 9), and so are
the effect in another chip state than the row's (log 18) and that of an empty lane (log 8). -/
def Obligations.EraseRowsEraseTheirTarget : Prop :=
  ∀ (l : Lane) (a : Word) (s : State),
    let c := s.io.chips.get l
    let r := sectorOf c.family (a.toNat % s.cfg.cap c.family)
    if c.fitted = false then
      exec (.jcChipErase l a) s = .next s ∧ exec (.jcSectorErase l a) s = .next s ∧
      exec (.jcSectorEraseMore l a) s = .next s
    else
      (∃ content : Memory, (∀ x, content.read x = 0xFF) ∧
        exec (.jcChipErase l a) s =
          .next (s.withChip l
            (if s.cfg.match1 c.family a then
              { c with content := content, busy := c.draws.headD (.reads 0), draws := c.draws.tail, toggle := false,
                       batchOpen := false, algState := .readingStatus }
              else { c with algState := c.idle }))) ∧
      ∃ content : Memory,
        (∀ x, content.read x = if r.1 ≤ x ∧ x < r.2 then 0xFF else c.content.read x) ∧
        exec (.jcSectorErase l a) s =
          .next (s.withChip l
            { c with content := content, busy := c.draws.headD (.reads 0), draws := c.draws.tail, toggle := false,
                     batchOpen := c.family == .familyB, algState := .readingStatus }) ∧
        exec (.jcSectorEraseMore l a) s =
          .next (s.withChip l
            (if c.family = .familyB ∧ c.batchOpen = true then
              { c with content := content, busy := c.draws.headD (.reads 0), draws := c.draws.tail, toggle := false }
              else { c with busy := .reads 0, batchOpen := false, algState := c.idle }))

/-- O43. The bypass cycles, at any address (42_chip_model.md R280, R281): 0xA0 expects data, 0x90 begins the exit, 0x00
clears the flag and returns to the base state without it. The effect in another chip state than the row's is the model's
choice (log 18), and that of an empty lane too (log 8). -/
def Obligations.BypassRowsProgramAndExit : Prop :=
  ∀ (l : Lane) (a : Word) (s : State),
    let c := s.io.chips.get l
    if c.fitted = false then
      exec (.jcBypassProgram l a) s = .next s ∧ exec (.jcBypassReset1 l a) s = .next s ∧
      exec (.jcBypassReset2 l a) s = .next s
    else
      exec (.jcBypassProgram l a) s = .next (s.withChip l { c with algState := .programmingByte }) ∧
      exec (.jcBypassReset1 l a) s = .next (s.withChip l { c with algState := .bypassReset }) ∧
      exec (.jcBypassReset2 l a) s =
        .next (s.withChip l
          { c with bypassActive := false, algState := if c.softwareIdActive then .softwareId else .reading })

/-- O44. What a bus write does to the chip on a lane is the instruction its byte decodes to in that chip's state: the rows
run together are the commit function (30_encoding.md R122; 42_chip_model.md R282, R295). -/
def Obligations.LaneByteRunsItsRow : Prop :=
  ∀ (s : State) (l : Lane) (a : Word) (d : Byte),
    let c := s.io.chips.get l
    exec (decodeLane s.cfg l c.family c.algState c.batchOpen a d) s =
      .next (s.withChip l (if c.fitted then c.commit s.cfg l a d else c))

/-- O45. The pin events of one write cycle and of one read cycle (20_memory.md R65), taken one at a time by the four
instances (42_chip_model.md R262 to R266, R290), come to the cycle-level bus the sequencer uses (R295), from any states
with the control lines deasserted. -/
def Obligations.PinEventsAmountToBusCycles : Prop :=
  ∀ (cfg : Config) (chips : Lanes Chip) (a d : Word), (∀ l : Lane, (chips.get l).LinesIdle) →
    pinEvents cfg chips (writeCycleEvents a d) =
      .ok (chips.map (fun l c => c.writeCycle cfg l (cfg.busAddr a) (lane d l))) ∧
    ∃ mid : Lanes Chip, pinEvents cfg chips (readCycleEvents a) = .ok mid ∧
      sampledWord cfg mid = busWord cfg chips a ∧
      pinEvents cfg mid readCycleEnd = .ok (chips.map (fun _ c => c.readCycle (cfg.busAddr a)))

/-- O46. The zero-byte lemma (42_chip_model.md R286): a chip in read mode or software-ID mode that receives any run of 0x00
writes, at any addresses, is unchanged. -/
def Obligations.ZeroWritesChangeNothing : Prop :=
  ∀ (cfg : Config) (l : Lane) (c : Chip) (addrs : List Word), cfg.k1 l ≠ 0x00 →
    c.algState = .reading ∨ c.algState = .softwareId → c.algState = c.idle →
    addrs.foldl (fun c a => c.commit cfg l a 0x00) c = c

/-- O47. Unlock rejection (42_chip_model.md R283): from read mode or software-ID mode, a run of writes in which no first key
at a first unlock address is followed at once by the second key at a second one changes no content and ends in read mode
or software-ID mode, or in `Unlocking` where the last write was such a first key. -/
def Obligations.WithoutTheKeyPairNothingUnlocks : Prop :=
  ∀ (cfg : Config) (l : Lane) (c : Chip) (writes : List (Word × Byte)),
    c.algState = .reading ∨ c.algState = .softwareId → c.bypassActive = false →
    (∀ (pre post : List (Word × Byte)) (x y : Word × Byte), writes = pre ++ x :: y :: post →
      ¬ (cfg.match1 c.family x.1 = true ∧ x.2 = cfg.k1 l ∧ cfg.match2 c.family y.1 = true ∧ y.2 = cfg.k2 l)) →
    let c' := writes.foldl (fun c w => c.commit cfg l w.1 w.2) c
    c'.content = c.content ∧ c'.busy = c.busy ∧ c'.bypassActive = false ∧
    (c'.algState = .reading ∨ c'.algState = .softwareId ∨
      (c'.algState = .unlocking ∧
        ∃ x : Word × Byte, writes.getLast? = some x ∧ cfg.match1 c.family x.1 = true ∧ x.2 = cfg.k1 l))

/-- O48. The content laws (42_chip_model.md R284): only a data cycle or an erase changes content; programming and-s, so
programming the same byte twice is programming it once; an erase is idempotent; after an erase of its sector a byte takes
exactly the value programmed. -/
def Obligations.ContentChangesOnlyByProgramAndErase : Prop :=
  ∀ (cfg : Config) (l : Lane) (c : Chip) (a : Word) (d : Byte), c.legal cfg → 0 < cfg.cap c.family →
    ((c.commit cfg l a d).content ≠ c.content →
      c.algState = .programmingByte ∨ c.algState = .eraseWaitingForCommand ∨
        (c.algState = .readingStatus ∧ c.family = .familyB ∧ c.batchOpen = true ∧ d = 0x30)) ∧
    ((c.program cfg a d).program cfg a d).content = (c.program cfg a d).content ∧
    ((c.eraseSectorOf cfg a).eraseSectorOf cfg a).content = (c.eraseSectorOf cfg a).content ∧
    ((c.eraseSectorOf cfg a).program cfg a d).content.read (c.index cfg a) = d

/-- O49. Reads never move the command grammar (42_chip_model.md R287): a read cycle changes no content and no mode flag, and
the state only from status to the base state. -/
def Obligations.ReadCyclesNeverMoveTheGrammar : Prop :=
  ∀ (c : Chip) (a : Word),
    (c.readCycle a).content = c.content ∧ (c.readCycle a).softwareIdActive = c.softwareIdActive ∧
    (c.readCycle a).bypassActive = c.bypassActive ∧
    ((c.readCycle a).algState = c.algState ∨ (c.algState = .readingStatus ∧ (c.readCycle a).algState = c.idle))

/-- O50. The sector map (42_chip_model.md R278): every index lies in its sector; FamilyA's sectors are the 4 KB blocks;
FamilyB's are the four boot sub-sectors, which cover the first 64 KB, and the 64 KB blocks. -/
def Obligations.SectorsPartitionTheArray : Prop :=
  ∀ (f : Family) (i j : Nat),
    (sectorOf f i).1 ≤ i ∧ i < (sectorOf f i).2 ∧
    ((sectorOf f i).1 ≤ j ∧ j < (sectorOf f i).2 ↔ sectorOf f j = sectorOf f i) ∧
    (f = .familyA → (sectorOf f i).1 % 0x1000 = 0 ∧ (sectorOf f i).2 = (sectorOf f i).1 + 0x1000) ∧
    (f = .familyB → i < 0x10000 →
      sectorOf f i ∈ [(0, 0x4000), (0x4000, 0x6000), (0x6000, 0x8000), (0x8000, 0x10000)]) ∧
    (f = .familyB → 0x10000 ≤ i →
      (sectorOf f i).1 % 0x10000 = 0 ∧ (sectorOf f i).2 = (sectorOf f i).1 + 0x10000)

/-! ### The sequencer over chips that obey the grammar -/

/-- O51. The completion poll over chips that settle (40_flash_sequencer.md R150; 42_chip_model.md R292) ends after at least
two reads of the status address, and then no chip reads status. Where every socket has a chip that drives its lane, it
ends after at most two reads more than the longest busy time, as R292 says. Where a lane may be undriven, the bytes still
pending on the undriven lanes count as well, which is the model's (log 11). -/
def Obligations.PollEndsWithEveryChipIdle : Prop :=
  ∀ (cfg : Config) (io : Io), cfg.maxPolls = none → io.CanSettle →
    ∃ k : Nat, 2 ≤ k ∧ k ≤ pollBound io.chips + 2 ∧
      ((∀ l : Lane, (io.chips.get l).Drives) → k ≤ longestBusy io.chips + 2) ∧
      waitForCompletion cfg io = .done () ((fun io : Io => (io.memRead cfg cfg.statusAddr).2)^[k] io) ∧
      ∀ l : Lane, (io.chips.get l).fitted = true →
        (((fun io : Io => (io.memRead cfg cfg.statusAddr).2)^[k] io).chips.get l).algState ≠ .readingStatus

/-- O52. The outcome Hang is answered exactly when the poll loop, run for ever, never sees two equal consecutive words
(40_flash_sequencer.md R150; 60_exceptions.md R326): the bounded search of the model loses nothing. What the step that
meets it leaves is said for `ERASE_CHIPS`, the erase-portion payload and the write body (O37, O28, O34; log 4). -/
def Obligations.HangExactlyWhenPollNeverEnds : Prop :=
  ∀ (cfg : Config) (io : Io), cfg.maxPolls = none →
    (waitForCompletion cfg io = .hang io ↔ PollNeverEnds cfg io)

/-- O53. The effect of `eraseAll` on a chip of the selected family in read mode (40_flash_sequencer.md R157, R156): every byte
0xFF on a selected lane, nothing on another, and read mode again. -/
def Obligations.EraseAllErasesSelectedChips : Prop :=
  ∀ (cfg : Config) (f : Family) (m : Mask) (io io' : Io) (l : Lane), cfg.KeysReach →
    seqEraseAll cfg f m io = .done () io' → (io.chips.get l).Listening cfg f →
    (io'.chips.get l).InReadMode ∧
    ∀ a, (io'.chips.get l).content.read a = if m.getLsbD l.val then 0xFF else (io.chips.get l).content.read a

/-- O54. The masking invariant (40_flash_sequencer.md R155, R157): whatever chip stands on an unselected lane in read mode, a
masked operation leaves its content and leaves it in read mode, even if the operation hangs. That the data word of
`writeSome` is masked too is the spec's own choice (R155; log 26). -/
def Obligations.MaskedOperationsSpareUnselectedChips : Prop :=
  ∀ (cfg : Config) (f : Family) (m : Mask) (io : Io) (l : Lane) (a n : Word) (ws : List Word), cfg.k1 l ≠ 0x00 →
    m.getLsbD l.val = false → (io.chips.get l).InReadMode →
    let spared := fun io' : Io =>
      (io'.chips.get l).InReadMode ∧ (io'.chips.get l).content = (io.chips.get l).content
    (seqEraseAll cfg f m io).Holds spared ∧ (seqEraseSectors cfg f m io a n).Holds spared ∧
    (seqWriteSome cfg f m io a ws).Holds spared

/-- O55. The effect of `writeSome` and `writeAll` on a selected chip of the family in read mode (40_flash_sequencer.md R151 to
R154, R157): word by word, in ascending order, its byte is and-ed in; and read mode again, for both families. -/
def Obligations.WritesAndEveryWordIn : Prop :=
  ∀ (cfg : Config) (f : Family) (m : Mask) (io io' : Io) (l : Lane) (a : Word) (ws : List Word), cfg.KeysReach →
    (io.chips.get l).Listening cfg f →
    (seqWriteSome cfg f m io a ws = .done () io' ∧ m.getLsbD l.val = true ∨ seqWriteAll cfg f io a ws = .done () io') →
    (io'.chips.get l).InReadMode ∧
    (io'.chips.get l).content = programmedBy cfg (cfg.cap f) l (io.chips.get l).content a ws

/-- O56. The effect of `eraseSectors` on a selected chip of the family in read mode, for a range inside its capacity
(40_flash_sequencer.md R147 to R149, R157): exactly the bytes of the range become 0xFF; and read mode again, but for the
FamilyB range of length 0, which leaves the chip expecting an erase command with its content unchanged
(70_reset_and_hazards.md R366). -/
def Obligations.EraseSectorsErasesExactlyTheRange : Prop :=
  ∀ (cfg : Config) (f : Family) (m : Mask) (io io' : Io) (l : Lane) (address length : Word), cfg.KeysReach →
    cfg.cap f % sectorSize f = 0 → cfg.cap f ≤ 2 ^ cfg.addrLines → cfg.addrLines ≤ 32 →
    address.toNat + length.toNat ≤ cfg.cap f → (io.chips.get l).Listening cfg f → m.getLsbD l.val = true →
    seqEraseSectors cfg f m io address length = .done true io' →
    (∀ x, (io'.chips.get l).content.read x =
      if address.toNat ≤ x ∧ x < address.toNat + length.toNat then 0xFF else (io.chips.get l).content.read x) ∧
    (if f = .familyB ∧ length = 0 then (io'.chips.get l).algState = .eraseWaitingForCommand
      else (io'.chips.get l).InReadMode)

/-- O57. Round trip (40_flash_sequencer.md R157; 42_chip_model.md R284): words programmed into an erased region of four chips
of the selected family in read mode are the words a read of the region returns. -/
def Obligations.WriteThenReadReturnsTheWords : Prop :=
  ∀ (cfg : Config) (f : Family) (io io' : Io) (a : Word) (ws : List Word), cfg.KeysReach →
    cfg.cap f ≤ 2 ^ cfg.addrLines → cfg.addrLines ≤ 32 → a.toNat + ws.length ≤ cfg.cap f →
    (∀ l : Lane, (io.chips.get l).Listening cfg f ∧
      ∀ x, a.toNat ≤ x → x < a.toNat + ws.length → (io.chips.get l).content.read x = 0xFF) →
    seqWriteAll cfg f io a ws = .done () io' →
    (seqRead cfg io' a ws.length).1 = ws

/-- O58. `writeSome` with every chip selected is `writeAll`, cycle for cycle (70_reset_and_hazards.md R371). -/
def Obligations.WriteSomeOfAllChipsIsWriteAll : Prop :=
  ∀ (cfg : Config) (f : Family) (io : Io) (a : Word) (ws : List Word),
    seqWriteSome cfg f 0b1111 io a ws = seqWriteAll cfg f io a ws

/-- O59. The wrong family, under the default parameters (70_reset_and_hazards.md R361): erases and writes sent to a chip of
the other family in read mode change no content. (A data word that equals the first key at a matching address may leave
such a chip in `Unlocking`.) -/
def Obligations.WrongFamilyChangesNoContent : Prop :=
  ∀ (f : Family) (m : Mask) (io : Io) (l : Lane) (a n : Word) (ws : List Word),
    (io.chips.get l).family ≠ f → (io.chips.get l).InReadMode →
    let same := fun io' : Io => (io'.chips.get l).content = (io.chips.get l).content
    (seqEraseAll Config.standard f m io).Holds same ∧ (seqEraseSectors Config.standard f m io a n).Holds same ∧
    (seqWriteSome Config.standard f m io a ws).Holds same ∧ (seqWriteAll Config.standard f io a ws).Holds same

/-- O60. `eraseSectors` refuses a misaligned request with no bus activity, and only such a one (40_flash_sequencer.md R147). -/
def Obligations.MisalignedSectorEraseTouchesNoBus : Prop :=
  ∀ (cfg : Config) (f : Family) (m : Mask) (io : Io) (address length : Word),
    (address.toNat % sectorSize f ≠ 0 ∨ length.toNat % sectorSize f ≠ 0 →
      seqEraseSectors cfg f m io address length = .done false io) ∧
    (address.toNat % sectorSize f = 0 → length.toNat % sectorSize f = 0 →
      ∀ io', seqEraseSectors cfg f m io address length ≠ .done false io')
end

