-- ==== Sys2Proof/Laws/Lanes.lean ====
section
/-! SUPPORT. The laws of a record that holds one thing per lane. -/

namespace Sys2Proof

@[simp] theorem Lanes.get_same {α : Type} (v : α) (l : Lane) : (Lanes.same v).get l = v := by
  fin_cases l <;> rfl

/-- The value of one lane after a map over all. -/
@[simp] theorem Lanes.get_map {α β : Type} (f : Lane → α → β) (x : Lanes α) (l : Lane) :
    (x.map f).get l = f l (x.get l) := by
  fin_cases l <;> rfl

@[simp] theorem Lanes.get_set_self {α : Type} (x : Lanes α) (v : α) (l : Lane) : (x.set v l).get l = v := by
  fin_cases l <;> rfl

/-- Setting one lane leaves the others. -/
theorem Lanes.get_set_ne {α : Type} (x : Lanes α) (v : α) {l k : Lane} (h : k ≠ l) : (x.set v l).get k = x.get k := by
  fin_cases l <;> fin_cases k <;> simp_all <;> rfl

/-- Two records of lanes with the same lanes are the same. -/
theorem Lanes.ext_get {α : Type} {x y : Lanes α} (h : ∀ l, x.get l = y.get l) : x = y := by
  cases x; cases y
  simp only [Lanes.mk.injEq]
  exact ⟨h 0, h 1, h 2, h 3⟩

end Sys2Proof
end

