-- ==== Sys2Proof/Laws/Bits.lean ====
section
/-! SUPPORT. The laws of lanes and masks (00_scope.md R11, R12). -/

namespace Sys2Proof

/-- A lane of a word built from its lanes. -/
@[simp] theorem lane_wordOf (x : Lanes Byte) (l : Lane) : lane (wordOf x) l = x.get l := by
  apply BitVec.eq_of_getLsbD_eq
  intro i hi
  fin_cases l
  all_goals
    simp only [lane, wordOf, Lanes.get, BitVec.getLsbD_extractLsb', BitVec.getLsbD_or, BitVec.getLsbD_shiftLeft,
      BitVec.getLsbD_setWidth]
  · simp [hi, show i < 32 by omega, show i < 16 by omega, show i < 24 by omega]
  · simp [hi, show i < 32 by omega, show 8 + i < 32 by omega, show 8 + i < 16 by omega, show 8 + i < 24 by omega]
  · simp [hi, show i < 32 by omega, show 16 + i < 32 by omega, show 16 + i < 24 by omega,
      show ¬ 16 + i < 16 by omega, show ¬ 16 + i < 8 by omega, show 16 + i - 8 = 8 + i by omega,
      BitVec.getLsbD_of_ge x.l0 (16 + i) (by omega)]
  · simp [hi, show i < 32 by omega, show 24 + i < 32 by omega, show ¬ 24 + i < 24 by omega,
      show ¬ 24 + i < 16 by omega, show ¬ 24 + i < 8 by omega, show 24 + i - 8 = 16 + i by omega,
      show 24 + i - 16 = 8 + i by omega,
      BitVec.getLsbD_of_ge x.l0 (24 + i) (by omega), BitVec.getLsbD_of_ge x.l1 (16 + i) (by omega)]

@[simp] theorem lane_rep (b : Byte) (l : Lane) : lane (rep b) l = b := by
  rw [rep, lane_wordOf, Lanes.get_same]

/-- One lane of `LM(m)`. -/
theorem lane_laneMask (m : Mask) (l : Lane) : lane (laneMask m) l = if m.getLsbD l.val then 0xFF else 0x00 := by
  rw [laneMask, lane_wordOf]
  fin_cases l <;> rfl

/-- A lane of a conjunction. -/
theorem lane_and (v w : Word) (l : Lane) : lane (v &&& w) l = lane v l &&& lane w l := by
  simp [lane, BitVec.extractLsb'_and]

/-- Masking keeps the byte of a selected lane and zeroes the others (00_scope.md R14). -/
theorem lane_masked (w : Word) (m : Mask) (l : Lane) :
    lane (w &&& laneMask m) l = if m.getLsbD l.val then lane w l else 0x00 := by
  rw [lane_and, lane_laneMask]
  split
  · exact BitVec.and_allOnes (x := lane w l)
  · exact BitVec.and_zero

/-- One lane of `cmd(b, m)` (30_encoding.md R120). -/
theorem lane_cmdWord (b : Byte) (m : Mask) (l : Lane) :
    lane (cmdWord b m) l = if m.getLsbD l.val then b else 0x00 := by
  rw [cmdWord, lane_masked, lane_rep]

/-- Two words that agree on every lane are the same. -/
theorem word_ext {v w : Word} (h : ∀ l, lane v l = lane w l) : v = w := by
  apply BitVec.eq_of_getLsbD_eq
  intro i hi
  have key : ∀ l : Lane, 8 * l.val ≤ i → i < 8 * l.val + 8 → v.getLsbD i = w.getLsbD i := by
    intro l h1 h2
    have := congrArg (fun b => b.getLsbD (i - 8 * l.val)) (h l)
    simpa [lane, BitVec.getLsbD_extractLsb', show i - 8 * l.val < 8 by omega,
      show 8 * l.val + (i - 8 * l.val) = i by omega] using this
  by_cases h0 : i < 8
  · exact key 0 (by simp) (by simpa using h0)
  · by_cases h1 : i < 16
    · exact key 1 (by simp; omega) (by simp; omega)
    · by_cases h2 : i < 24
      · exact key 2 (by simp; omega) (by simp; omega)
      · exact key 3 (by simp; omega) (by simp; omega)

/-- All chips selected is no masking (40_flash_sequencer.md R153). -/
@[simp] theorem and_laneMask_all (w : Word) : w &&& laneMask Machine.allChips = w := by
  apply word_ext
  intro l
  rw [lane_masked]
  fin_cases l <;> rfl

/-- A command word for all chips is the replicated byte (30_encoding.md R120). -/
@[simp] theorem cmdWord_all (b : Byte) : cmdWord b Machine.allChips = rep b := and_laneMask_all (rep b)

end Sys2Proof
end

