-- ==== Sys2Proof/Laws/State.lean ====
section
/-! SUPPORT. What each update of the state leaves in each field: one lemma per field per update, true by definition. -/

namespace Sys2Proof.Machine

@[simp] theorem State.tx_cfg (s : State) (bs : List Byte) : (s.tx bs).cfg = s.cfg := rfl
@[simp] theorem State.tx_control (s : State) (bs : List Byte) : (s.tx bs).control = s.control := rfl
@[simp] theorem State.tx_cnt (s : State) (bs : List Byte) : (s.tx bs).cnt = s.cnt := rfl
@[simp] theorem State.tx_pos (s : State) (bs : List Byte) : (s.tx bs).pos = s.pos := rfl
@[simp] theorem State.tx_len (s : State) (bs : List Byte) : (s.tx bs).len = s.len := rfl
@[simp] theorem State.tx_cursor (s : State) (bs : List Byte) : (s.tx bs).cursor = s.cursor := rfl
@[simp] theorem State.tx_endCursor (s : State) (bs : List Byte) : (s.tx bs).endCursor = s.endCursor := rfl
@[simp] theorem State.tx_chipMask (s : State) (bs : List Byte) : (s.tx bs).chipMask = s.chipMask := rfl
@[simp] theorem State.tx_verify (s : State) (bs : List Byte) : (s.tx bs).verify = s.verify := rfl
@[simp] theorem State.tx_family (s : State) (bs : List Byte) : (s.tx bs).family = s.family := rfl
@[simp] theorem State.tx_body (s : State) (bs : List Byte) : (s.tx bs).body = s.body := rfl
@[simp] theorem State.tx_hung (s : State) (bs : List Byte) : (s.tx bs).hung = s.hung := rfl
@[simp] theorem State.tx_rx (s : State) (bs : List Byte) : (s.tx bs).rx = s.rx := rfl
@[simp] theorem State.tx_io (s : State) (bs : List Byte) : (s.tx bs).io = s.io.tx bs := rfl
@[simp] theorem State.tx_bench (s : State) (bs : List Byte) : (s.tx bs).bench = s.bench := rfl
@[simp] theorem State.tx_etest (s : State) (bs : List Byte) : (s.tx bs).etest = s.etest := rfl
@[simp] theorem State.tx_freeCount (s : State) (bs : List Byte) : (s.tx bs).freeCount = s.freeCount := rfl

@[simp] theorem State.flush_cfg (s : State) : s.flush.cfg = s.cfg := rfl
@[simp] theorem State.flush_control (s : State) : s.flush.control = s.control := rfl
@[simp] theorem State.flush_cnt (s : State) : s.flush.cnt = s.cnt := rfl
@[simp] theorem State.flush_pos (s : State) : s.flush.pos = s.pos := rfl
@[simp] theorem State.flush_len (s : State) : s.flush.len = s.len := rfl
@[simp] theorem State.flush_cursor (s : State) : s.flush.cursor = s.cursor := rfl
@[simp] theorem State.flush_endCursor (s : State) : s.flush.endCursor = s.endCursor := rfl
@[simp] theorem State.flush_chipMask (s : State) : s.flush.chipMask = s.chipMask := rfl
@[simp] theorem State.flush_verify (s : State) : s.flush.verify = s.verify := rfl
@[simp] theorem State.flush_family (s : State) : s.flush.family = s.family := rfl
@[simp] theorem State.flush_body (s : State) : s.flush.body = s.body := rfl
@[simp] theorem State.flush_hung (s : State) : s.flush.hung = s.hung := rfl
@[simp] theorem State.flush_rx (s : State) : s.flush.rx = s.rx := rfl
@[simp] theorem State.flush_io (s : State) : s.flush.io = s.io.flush := rfl
@[simp] theorem State.flush_bench (s : State) : s.flush.bench = s.bench := rfl
@[simp] theorem State.flush_etest (s : State) : s.flush.etest = s.etest := rfl
@[simp] theorem State.flush_freeCount (s : State) : s.flush.freeCount = s.freeCount := rfl

@[simp] theorem State.finish_cfg (s : State) (bs : List Byte) : (s.finish bs).cfg = s.cfg := rfl
@[simp] theorem State.finish_control (s : State) (bs : List Byte) : (s.finish bs).control = .waitingForCommand := rfl
@[simp] theorem State.finish_cnt (s : State) (bs : List Byte) : (s.finish bs).cnt = s.cnt := rfl
@[simp] theorem State.finish_pos (s : State) (bs : List Byte) : (s.finish bs).pos = s.pos := rfl
@[simp] theorem State.finish_len (s : State) (bs : List Byte) : (s.finish bs).len = s.len := rfl
@[simp] theorem State.finish_cursor (s : State) (bs : List Byte) : (s.finish bs).cursor = s.cursor := rfl
@[simp] theorem State.finish_endCursor (s : State) (bs : List Byte) : (s.finish bs).endCursor = s.endCursor := rfl
@[simp] theorem State.finish_chipMask (s : State) (bs : List Byte) : (s.finish bs).chipMask = s.chipMask := rfl
@[simp] theorem State.finish_verify (s : State) (bs : List Byte) : (s.finish bs).verify = s.verify := rfl
@[simp] theorem State.finish_family (s : State) (bs : List Byte) : (s.finish bs).family = s.family := rfl
@[simp] theorem State.finish_body (s : State) (bs : List Byte) : (s.finish bs).body = s.body := rfl
@[simp] theorem State.finish_hung (s : State) (bs : List Byte) : (s.finish bs).hung = s.hung := rfl
@[simp] theorem State.finish_rx (s : State) (bs : List Byte) : (s.finish bs).rx = s.rx := rfl
@[simp] theorem State.finish_io (s : State) (bs : List Byte) : (s.finish bs).io = s.io.tx bs := rfl
@[simp] theorem State.finish_bench (s : State) (bs : List Byte) : (s.finish bs).bench = s.bench := rfl
@[simp] theorem State.finish_etest (s : State) (bs : List Byte) : (s.finish bs).etest = s.etest := rfl
@[simp] theorem State.finish_freeCount (s : State) (bs : List Byte) : (s.finish bs).freeCount = s.freeCount := rfl

@[simp] theorem State.raise_cfg (s : State) (e : ErrorExit) : (s.raise e).cfg = s.cfg := rfl
@[simp] theorem State.raise_control (s : State) (e : ErrorExit) : (s.raise e).control = .waitingForCommand := rfl
@[simp] theorem State.raise_cnt (s : State) (e : ErrorExit) : (s.raise e).cnt = s.cnt := rfl
@[simp] theorem State.raise_pos (s : State) (e : ErrorExit) : (s.raise e).pos = s.pos := rfl
@[simp] theorem State.raise_len (s : State) (e : ErrorExit) : (s.raise e).len = s.len := rfl
@[simp] theorem State.raise_cursor (s : State) (e : ErrorExit) : (s.raise e).cursor = s.cursor := rfl
@[simp] theorem State.raise_endCursor (s : State) (e : ErrorExit) : (s.raise e).endCursor = s.endCursor := rfl
@[simp] theorem State.raise_chipMask (s : State) (e : ErrorExit) : (s.raise e).chipMask = s.chipMask := rfl
@[simp] theorem State.raise_verify (s : State) (e : ErrorExit) : (s.raise e).verify = s.verify := rfl
@[simp] theorem State.raise_family (s : State) (e : ErrorExit) : (s.raise e).family = s.family := rfl
@[simp] theorem State.raise_body (s : State) (e : ErrorExit) : (s.raise e).body = s.body := rfl
@[simp] theorem State.raise_hung (s : State) (e : ErrorExit) : (s.raise e).hung = s.hung := rfl
@[simp] theorem State.raise_rx (s : State) (e : ErrorExit) : (s.raise e).rx = s.rx := rfl
@[simp] theorem State.raise_io (s : State) (e : ErrorExit) : (s.raise e).io = s.io.tx (e.reply s.cfg.reply) := rfl
@[simp] theorem State.raise_bench (s : State) (e : ErrorExit) : (s.raise e).bench = s.bench := rfl
@[simp] theorem State.raise_etest (s : State) (e : ErrorExit) : (s.raise e).etest = s.etest := rfl
@[simp] theorem State.raise_freeCount (s : State) (e : ErrorExit) : (s.raise e).freeCount = s.freeCount := rfl

@[simp] theorem State.setVerify_cfg (s : State) (v : Bool) : (s.setVerify v).cfg = s.cfg := rfl
@[simp] theorem State.setVerify_control (s : State) (v : Bool) : (s.setVerify v).control = s.control := rfl
@[simp] theorem State.setVerify_cnt (s : State) (v : Bool) : (s.setVerify v).cnt = s.cnt := rfl
@[simp] theorem State.setVerify_pos (s : State) (v : Bool) : (s.setVerify v).pos = s.pos := rfl
@[simp] theorem State.setVerify_len (s : State) (v : Bool) : (s.setVerify v).len = s.len := rfl
@[simp] theorem State.setVerify_cursor (s : State) (v : Bool) : (s.setVerify v).cursor = s.cursor := rfl
@[simp] theorem State.setVerify_endCursor (s : State) (v : Bool) : (s.setVerify v).endCursor = s.endCursor := rfl
@[simp] theorem State.setVerify_chipMask (s : State) (v : Bool) : (s.setVerify v).chipMask = s.chipMask := rfl
@[simp] theorem State.setVerify_verify (s : State) (v : Bool) : (s.setVerify v).verify = v := rfl
@[simp] theorem State.setVerify_family (s : State) (v : Bool) : (s.setVerify v).family = s.family := rfl
@[simp] theorem State.setVerify_body (s : State) (v : Bool) : (s.setVerify v).body = s.body := rfl
@[simp] theorem State.setVerify_hung (s : State) (v : Bool) : (s.setVerify v).hung = s.hung := rfl
@[simp] theorem State.setVerify_rx (s : State) (v : Bool) : (s.setVerify v).rx = s.rx := rfl
@[simp] theorem State.setVerify_io (s : State) (v : Bool) : (s.setVerify v).io = s.io := rfl
@[simp] theorem State.setVerify_bench (s : State) (v : Bool) : (s.setVerify v).bench = s.bench := rfl
@[simp] theorem State.setVerify_etest (s : State) (v : Bool) : (s.setVerify v).etest = s.etest := rfl
@[simp] theorem State.setVerify_freeCount (s : State) (v : Bool) : (s.setVerify v).freeCount = s.freeCount := rfl

@[simp] theorem State.takePosByte_cfg (s : State) (b : Byte) : (s.takePosByte b).cfg = s.cfg := rfl
@[simp] theorem State.takePosByte_control (s : State) (b : Byte) : (s.takePosByte b).control = s.control := rfl
@[simp] theorem State.takePosByte_cnt (s : State) (b : Byte) : (s.takePosByte b).cnt = s.cnt + 1 := rfl
@[simp] theorem State.takePosByte_pos (s : State) (b : Byte) :
    (s.takePosByte b).pos =
      accumulate s.pos b s.cnt.toNat := rfl
@[simp] theorem State.takePosByte_len (s : State) (b : Byte) : (s.takePosByte b).len = s.len := rfl
@[simp] theorem State.takePosByte_cursor (s : State) (b : Byte) : (s.takePosByte b).cursor = s.cursor := rfl
@[simp] theorem State.takePosByte_endCursor (s : State) (b : Byte) : (s.takePosByte b).endCursor = s.endCursor := rfl
@[simp] theorem State.takePosByte_chipMask (s : State) (b : Byte) : (s.takePosByte b).chipMask = s.chipMask := rfl
@[simp] theorem State.takePosByte_verify (s : State) (b : Byte) : (s.takePosByte b).verify = s.verify := rfl
@[simp] theorem State.takePosByte_family (s : State) (b : Byte) : (s.takePosByte b).family = s.family := rfl
@[simp] theorem State.takePosByte_body (s : State) (b : Byte) : (s.takePosByte b).body = s.body := rfl
@[simp] theorem State.takePosByte_hung (s : State) (b : Byte) : (s.takePosByte b).hung = s.hung := rfl
@[simp] theorem State.takePosByte_rx (s : State) (b : Byte) : (s.takePosByte b).rx = s.rx := rfl
@[simp] theorem State.takePosByte_io (s : State) (b : Byte) : (s.takePosByte b).io = s.io := rfl
@[simp] theorem State.takePosByte_bench (s : State) (b : Byte) : (s.takePosByte b).bench = s.bench := rfl
@[simp] theorem State.takePosByte_etest (s : State) (b : Byte) : (s.takePosByte b).etest = s.etest := rfl
@[simp] theorem State.takePosByte_freeCount (s : State) (b : Byte) : (s.takePosByte b).freeCount = s.freeCount := rfl

@[simp] theorem State.takeLenByte_cfg (s : State) (b : Byte) : (s.takeLenByte b).cfg = s.cfg := rfl
@[simp] theorem State.takeLenByte_control (s : State) (b : Byte) : (s.takeLenByte b).control = s.control := rfl
@[simp] theorem State.takeLenByte_cnt (s : State) (b : Byte) : (s.takeLenByte b).cnt = s.cnt + 1 := rfl
@[simp] theorem State.takeLenByte_pos (s : State) (b : Byte) : (s.takeLenByte b).pos = s.pos := rfl
@[simp] theorem State.takeLenByte_len (s : State) (b : Byte) :
    (s.takeLenByte b).len =
      accumulate s.len b s.cnt.toNat := rfl
@[simp] theorem State.takeLenByte_cursor (s : State) (b : Byte) : (s.takeLenByte b).cursor = s.cursor := rfl
@[simp] theorem State.takeLenByte_endCursor (s : State) (b : Byte) : (s.takeLenByte b).endCursor = s.endCursor := rfl
@[simp] theorem State.takeLenByte_chipMask (s : State) (b : Byte) : (s.takeLenByte b).chipMask = s.chipMask := rfl
@[simp] theorem State.takeLenByte_verify (s : State) (b : Byte) : (s.takeLenByte b).verify = s.verify := rfl
@[simp] theorem State.takeLenByte_family (s : State) (b : Byte) : (s.takeLenByte b).family = s.family := rfl
@[simp] theorem State.takeLenByte_body (s : State) (b : Byte) : (s.takeLenByte b).body = s.body := rfl
@[simp] theorem State.takeLenByte_hung (s : State) (b : Byte) : (s.takeLenByte b).hung = s.hung := rfl
@[simp] theorem State.takeLenByte_rx (s : State) (b : Byte) : (s.takeLenByte b).rx = s.rx := rfl
@[simp] theorem State.takeLenByte_io (s : State) (b : Byte) : (s.takeLenByte b).io = s.io := rfl
@[simp] theorem State.takeLenByte_bench (s : State) (b : Byte) : (s.takeLenByte b).bench = s.bench := rfl
@[simp] theorem State.takeLenByte_etest (s : State) (b : Byte) : (s.takeLenByte b).etest = s.etest := rfl
@[simp] theorem State.takeLenByte_freeCount (s : State) (b : Byte) : (s.takeLenByte b).freeCount = s.freeCount := rfl

@[simp] theorem State.chunkWritten_cfg (s : State) : s.chunkWritten.cfg = s.cfg := rfl
@[simp] theorem State.chunkWritten_control (s : State) : s.chunkWritten.control = s.control := rfl
@[simp] theorem State.chunkWritten_cnt (s : State) : s.chunkWritten.cnt = s.cnt := rfl
@[simp] theorem State.chunkWritten_pos (s : State) : s.chunkWritten.pos = s.pos := rfl
@[simp] theorem State.chunkWritten_len (s : State) : s.chunkWritten.len = s.len := rfl
@[simp] theorem State.chunkWritten_cursor (s : State) : s.chunkWritten.cursor = s.cursor + 1 := rfl
@[simp] theorem State.chunkWritten_endCursor (s : State) : s.chunkWritten.endCursor = s.endCursor := rfl
@[simp] theorem State.chunkWritten_chipMask (s : State) : s.chunkWritten.chipMask = s.chipMask := rfl
@[simp] theorem State.chunkWritten_verify (s : State) : s.chunkWritten.verify = s.verify := rfl
@[simp] theorem State.chunkWritten_family (s : State) : s.chunkWritten.family = s.family := rfl
@[simp] theorem State.chunkWritten_body (s : State) : s.chunkWritten.body = s.body := rfl
@[simp] theorem State.chunkWritten_hung (s : State) : s.chunkWritten.hung = s.hung := rfl
@[simp] theorem State.chunkWritten_rx (s : State) : s.chunkWritten.rx = s.rx := rfl
@[simp] theorem State.chunkWritten_io (s : State) : s.chunkWritten.io = s.io.tx [s.cfg.reply.writeOK] := rfl
@[simp] theorem State.chunkWritten_bench (s : State) : s.chunkWritten.bench = s.bench := rfl
@[simp] theorem State.chunkWritten_etest (s : State) : s.chunkWritten.etest = s.etest := rfl
@[simp] theorem State.chunkWritten_freeCount (s : State) : s.chunkWritten.freeCount = s.freeCount := rfl

@[simp] theorem State.sendWords_cfg (s : State) (n : Nat) : (s.sendWords n).cfg = s.cfg := rfl
@[simp] theorem State.sendWords_control (s : State) (n : Nat) : (s.sendWords n).control = s.control := rfl
@[simp] theorem State.sendWords_cnt (s : State) (n : Nat) : (s.sendWords n).cnt = s.cnt := rfl
@[simp] theorem State.sendWords_pos (s : State) (n : Nat) : (s.sendWords n).pos = s.pos := rfl
@[simp] theorem State.sendWords_len (s : State) (n : Nat) : (s.sendWords n).len = s.len := rfl
@[simp] theorem State.sendWords_cursor (s : State) (n : Nat) : (s.sendWords n).cursor = s.cursor := rfl
@[simp] theorem State.sendWords_endCursor (s : State) (n : Nat) : (s.sendWords n).endCursor = s.endCursor := rfl
@[simp] theorem State.sendWords_chipMask (s : State) (n : Nat) : (s.sendWords n).chipMask = s.chipMask := rfl
@[simp] theorem State.sendWords_verify (s : State) (n : Nat) : (s.sendWords n).verify = s.verify := rfl
@[simp] theorem State.sendWords_family (s : State) (n : Nat) : (s.sendWords n).family = s.family := rfl
@[simp] theorem State.sendWords_body (s : State) (n : Nat) : (s.sendWords n).body = s.body := rfl
@[simp] theorem State.sendWords_hung (s : State) (n : Nat) : (s.sendWords n).hung = s.hung := rfl
@[simp] theorem State.sendWords_rx (s : State) (n : Nat) : (s.sendWords n).rx = s.rx := rfl
@[simp] theorem State.sendWords_bench (s : State) (n : Nat) : (s.sendWords n).bench = s.bench := rfl
@[simp] theorem State.sendWords_etest (s : State) (n : Nat) : (s.sendWords n).etest = s.etest := rfl
@[simp] theorem State.sendWords_freeCount (s : State) (n : Nat) : (s.sendWords n).freeCount = s.freeCount := rfl
@[simp] theorem State.sendWords_io (s : State) (n : Nat) :
    (s.sendWords n).io =
      (s.io.burstRead s.cfg (s.cursor * 256) n).2.tx
        ((s.io.burstRead s.cfg (s.cursor * 256) n).1.flatMap (fun w => [lane w 3, lane w 2, lane w 1, lane w 0])) := rfl

@[simp] theorem State.sendChunk_cfg (s : State) : s.sendChunk.cfg = s.cfg := s.sendWords_cfg chunkWords
@[simp] theorem State.sendChunk_control (s : State) : s.sendChunk.control = s.control := s.sendWords_control chunkWords
@[simp] theorem State.sendChunk_cnt (s : State) : s.sendChunk.cnt = s.cnt := s.sendWords_cnt chunkWords
@[simp] theorem State.sendChunk_pos (s : State) : s.sendChunk.pos = s.pos := s.sendWords_pos chunkWords
@[simp] theorem State.sendChunk_len (s : State) : s.sendChunk.len = s.len := s.sendWords_len chunkWords
@[simp] theorem State.sendChunk_cursor (s : State) : s.sendChunk.cursor = s.cursor := s.sendWords_cursor chunkWords
@[simp] theorem State.sendChunk_endCursor (s : State) : s.sendChunk.endCursor = s.endCursor := s.sendWords_endCursor chunkWords
@[simp] theorem State.sendChunk_chipMask (s : State) : s.sendChunk.chipMask = s.chipMask := s.sendWords_chipMask chunkWords
@[simp] theorem State.sendChunk_verify (s : State) : s.sendChunk.verify = s.verify := s.sendWords_verify chunkWords
@[simp] theorem State.sendChunk_family (s : State) : s.sendChunk.family = s.family := s.sendWords_family chunkWords
@[simp] theorem State.sendChunk_body (s : State) : s.sendChunk.body = s.body := s.sendWords_body chunkWords
@[simp] theorem State.sendChunk_hung (s : State) : s.sendChunk.hung = s.hung := s.sendWords_hung chunkWords
@[simp] theorem State.sendChunk_rx (s : State) : s.sendChunk.rx = s.rx := s.sendWords_rx chunkWords
@[simp] theorem State.sendChunk_bench (s : State) : s.sendChunk.bench = s.bench := s.sendWords_bench chunkWords
@[simp] theorem State.sendChunk_etest (s : State) : s.sendChunk.etest = s.etest := s.sendWords_etest chunkWords
@[simp] theorem State.sendChunk_freeCount (s : State) : s.sendChunk.freeCount = s.freeCount := s.sendWords_freeCount chunkWords
@[simp] theorem State.sendChunk_io (s : State) :
    s.sendChunk.io =
      (s.io.burstRead s.cfg (s.cursor * 256) 256).2.tx
        ((s.io.burstRead s.cfg (s.cursor * 256) 256).1.flatMap (fun w => [lane w 3, lane w 2, lane w 1, lane w 0])) :=
  s.sendWords_io 256

/-- `SendChunk()` changes the interfaces and nothing else (41_protocol_dispatcher.md R224). Unfold it through this lemma:
a definitional check that meets `burstRead` at the literal 256 does not come back. -/
theorem State.sendChunk_eq (s : State) :
    s.sendChunk =
      { s with
        io := (s.io.burstRead s.cfg (s.cursor * 256) 256).2.tx
          ((s.io.burstRead s.cfg (s.cursor * 256) 256).1.flatMap
            (fun w => [lane w 3, lane w 2, lane w 1, lane w 0])) } := by
  have key : ∀ n, s.sendWords n =
      { s with
        io := (s.io.burstRead s.cfg (s.cursor * 256) n).2.tx
          ((s.io.burstRead s.cfg (s.cursor * 256) n).1.flatMap
            (fun w => [lane w 3, lane w 2, lane w 1, lane w 0])) } := fun _ => rfl
  exact key 256

@[simp] theorem State.runElectricalTest_cfg (s : State) : s.runElectricalTest.cfg = s.cfg := rfl
@[simp] theorem State.runElectricalTest_control (s : State) : s.runElectricalTest.control = s.control := rfl
@[simp] theorem State.runElectricalTest_cnt (s : State) : s.runElectricalTest.cnt = s.cnt := rfl
@[simp] theorem State.runElectricalTest_pos (s : State) : s.runElectricalTest.pos = s.pos := rfl
@[simp] theorem State.runElectricalTest_len (s : State) : s.runElectricalTest.len = s.len := rfl
@[simp] theorem State.runElectricalTest_cursor (s : State) : s.runElectricalTest.cursor = s.cursor := rfl
@[simp] theorem State.runElectricalTest_endCursor (s : State) : s.runElectricalTest.endCursor = s.endCursor := rfl
@[simp] theorem State.runElectricalTest_chipMask (s : State) : s.runElectricalTest.chipMask = s.chipMask := rfl
@[simp] theorem State.runElectricalTest_verify (s : State) : s.runElectricalTest.verify = s.verify := rfl
@[simp] theorem State.runElectricalTest_family (s : State) : s.runElectricalTest.family = s.family := rfl
@[simp] theorem State.runElectricalTest_body (s : State) : s.runElectricalTest.body = s.body := rfl
@[simp] theorem State.runElectricalTest_hung (s : State) : s.runElectricalTest.hung = s.hung := rfl
@[simp] theorem State.runElectricalTest_rx (s : State) : s.runElectricalTest.rx = s.rx := rfl
@[simp] theorem State.runElectricalTest_io (s : State) :
    s.runElectricalTest.io =
      { s.io with chips := touchChips s.cfg s.io.chips s.electricalResult } := rfl
@[simp] theorem State.runElectricalTest_bench (s : State) : s.runElectricalTest.bench = s.bench := rfl
@[simp] theorem State.runElectricalTest_etest (s : State) : s.runElectricalTest.etest = s.etest.tail := rfl
@[simp] theorem State.runElectricalTest_freeCount (s : State) :
    s.runElectricalTest.freeCount =
      if s.etest.isEmpty then s.freeCount + 1 else s.freeCount := rfl

@[simp] theorem Io.tx_chips (io : Io) (bs : List Byte) : (io.tx bs).chips = io.chips := rfl
@[simp] theorem Io.tx_trace (io : Io) (bs : List Byte) : (io.tx bs).trace = io.trace ++ bs.map .tx := rfl
@[simp] theorem Io.flush_chips (io : Io) : io.flush.chips = io.chips := rfl
@[simp] theorem Io.flush_trace (io : Io) : io.flush.trace = io.trace ++ [.flush] := rfl
@[simp] theorem Io.memWrite_trace (cfg : Config) (io : Io) (a d : Word) :
    (io.memWrite cfg a d).trace = io.trace ++ [.write a d] := rfl
@[simp] theorem Io.memRead_trace (cfg : Config) (io : Io) (a : Word) :
    (io.memRead cfg a).2.trace = io.trace ++ [.read a (busWord cfg io.chips a)] := rfl
@[simp] theorem Io.memRead_word (cfg : Config) (io : Io) (a : Word) : (io.memRead cfg a).1 = busWord cfg io.chips a := rfl

/-- Appending nothing changes nothing. -/
@[simp] theorem Io.tx_nil (io : Io) : io.tx [] = io := by simp [Io.tx]

/-- Two runs of replies are one. -/
theorem Io.tx_append (io : Io) (xs ys : List Byte) : (io.tx xs).tx ys = io.tx (xs ++ ys) := by simp [Io.tx]

/-- What is appended to TX by a run of replies. -/
@[simp] theorem Io.txStream_tx (io : Io) (bs : List Byte) : (io.tx bs).txStream = io.txStream ++ bs.map .byte := by
  simp [Io.txStream, IoEvent.txItem, Function.comp_def]

/-- A flush appends its mark to TX. -/
@[simp] theorem Io.txStream_flush (io : Io) : io.flush.txStream = io.txStream ++ [.flush] := by
  simp [Io.txStream, IoEvent.txItem]

/-- A reply is no bus cycle. -/
@[simp] theorem Io.cycles_tx (io : Io) (bs : List Byte) : (io.tx bs).cycles = io.cycles := by
  simp [Io.cycles, List.filter_map, Function.comp_def, IoEvent.isCycle]

/-- A flush is no bus cycle. -/
@[simp] theorem Io.cycles_flush (io : Io) : io.flush.cycles = io.cycles := by
  simp [Io.cycles, IoEvent.isCycle]

end Sys2Proof.Machine
end

