-- ==== Sys2Proof/Laws/Memory.lean ====
section
/-! SUPPORT. The laws of one chip's content: reads after writes and erases, that every operation keeps the canonical form,
and that in canonical form equal contents are equal lists. -/

namespace Sys2Proof.Machine

@[simp] theorem Memory.read_nil (a : Nat) : Memory.read [] a = blankByte := rfl

@[simp] theorem Memory.read_erased (a : Nat) : Memory.read Memory.erased a = blankByte := rfl

theorem Memory.read_cons (k : Nat) (v : Byte) (m : Memory) (a : Nat) :
    Memory.read ((k, v) :: m) a = if k = a then v else m.read a := rfl

/-- An address that stands in no cell reads as the blank byte. -/
theorem Memory.read_of_not_mem (m : Memory) (a : Nat) (h : ∀ c ∈ m, c.1 ≠ a) : m.read a = blankByte := by
  induction m with
  | nil => rfl
  | cons c m ih =>
    rw [Memory.read_cons, if_neg (h c (by simp)), ih (fun x hx => h x (by simp [hx]))]

/-- What putting a cell in front does to a read. -/
theorem Memory.read_consCell (a : Nat) (b : Byte) (m : Memory) (x : Nat) (h : ∀ c ∈ m, c.1 ≠ a) :
    (Memory.consCell a b m).read x = if a = x then b else m.read x := by
  unfold Memory.consCell
  by_cases hb : b = blankByte
  · by_cases hx : a = x
    · subst hx; simp [hb, Memory.read_of_not_mem m a h]
    · simp [hb, hx]
  · simp [hb, Memory.read_cons]

/-- A read after a write: the written byte at its address, every other address as before. -/
theorem Memory.read_write (m : Memory) (h : m.Pairwise (fun x y => x.1 < y.1)) (a : Nat) (b : Byte) (x : Nat) :
    (m.write a b).read x = if a = x then b else m.read x := by
  induction m with
  | nil => exact Memory.read_consCell a b [] x (by simp)
  | cons c m ih =>
    obtain ⟨k, v⟩ := c
    have hk := List.pairwise_cons.mp h
    unfold Memory.write
    split
    · rename_i hak
      refine Memory.read_consCell a b _ x ?_
      intro c hc
      rcases List.mem_cons.mp hc with rfl | hc
      · exact Nat.ne_of_gt hak
      · exact Nat.ne_of_gt (Nat.lt_trans hak (hk.1 c hc))
    · split
      · rename_i hak
        subst hak
        rw [Memory.read_consCell a b m x (fun c hc => Nat.ne_of_gt (hk.1 c hc)), Memory.read_cons]
        split <;> rfl
      · rename_i h1 h2
        rw [Memory.read_cons, ih hk.2, Memory.read_cons]
        by_cases hx : k = x
        · subst hx; simp [h2]
        · simp [hx]

/-- Every address a write lists was listed before or is the written one. -/
theorem Memory.mem_write (m : Memory) (a : Nat) (b : Byte) (c : Host.Cell) (hc : c ∈ m.write a b) :
    c ∈ m ∨ (c = (a, b) ∧ b ≠ blankByte) := by
  induction m with
  | nil =>
    simp only [Memory.write, Memory.consCell] at hc
    split at hc <;> simp_all
  | cons d m ih =>
    obtain ⟨k, v⟩ := d
    simp only [Memory.write, Memory.consCell] at hc
    split at hc
    · split at hc <;> simp_all
      tauto
    · split at hc
      · split at hc <;> simp_all
        tauto
      · simp only [List.mem_cons] at hc ⊢
        rcases hc with h | h
        · exact Or.inl (Or.inl h)
        · rcases ih h with h | h
          · exact Or.inl (Or.inr h)
          · exact Or.inr h

/-- A write keeps the addresses strictly rising. -/
theorem Memory.write_sorted (m : Memory) (h : m.Pairwise (fun x y => x.1 < y.1)) (a : Nat) (b : Byte) :
    (m.write a b).Pairwise (fun x y => x.1 < y.1) := by
  induction m with
  | nil => unfold Memory.write Memory.consCell; split <;> simp
  | cons c m ih =>
    obtain ⟨k, v⟩ := c
    have hk := List.pairwise_cons.mp h
    unfold Memory.write Memory.consCell
    split
    · rename_i hak
      split
      · exact h
      · refine List.pairwise_cons.mpr ⟨?_, h⟩
        intro d hd
        rcases List.mem_cons.mp hd with rfl | hd
        · exact hak
        · exact Nat.lt_trans hak (hk.1 d hd)
    · split
      · rename_i hak
        subst hak
        split
        · exact hk.2
        · exact List.pairwise_cons.mpr ⟨fun d hd => hk.1 d hd, hk.2⟩
      · rename_i h1 h2
        refine List.pairwise_cons.mpr ⟨?_, ih hk.2⟩
        intro d hd
        rcases Memory.mem_write m a b d hd with hd | ⟨rfl, _⟩
        · exact hk.1 d hd
        · exact Nat.lt_of_le_of_ne (Nat.le_of_not_lt h1) (Ne.symm h2)

/-- A write inside the capacity keeps the canonical form. -/
theorem Memory.write_wf {cap : Nat} {m : Memory} (h : m.wf cap) {a : Nat} (ha : a < cap) (b : Byte) :
    (m.write a b).wf cap := by
  refine ⟨Memory.write_sorted m h.1 a b, fun c hc => ?_⟩
  rcases Memory.mem_write m a b c hc with hc | ⟨rfl, hb⟩
  · exact h.2 c hc
  · exact ⟨hb, ha⟩

/-- An erase keeps the canonical form. -/
theorem Memory.eraseRange_wf {cap : Nat} {m : Memory} (h : m.wf cap) (lo hi : Nat) : (m.eraseRange lo hi).wf cap :=
  ⟨h.1.filter _, fun c hc => h.2 c (List.mem_of_mem_filter hc)⟩

/-- The erased array is in canonical form. -/
theorem Memory.erased_wf (cap : Nat) : Memory.erased.wf cap :=
  ⟨List.Pairwise.nil, fun _ h => nomatch h⟩

/-- A read after an erase: the blank byte inside the range, every other address as before. -/
theorem Memory.read_eraseRange (m : Memory) (lo hi x : Nat) :
    (m.eraseRange lo hi).read x = if lo ≤ x ∧ x < hi then blankByte else m.read x := by
  induction m with
  | nil => simp [Memory.eraseRange]
  | cons c m ih =>
    obtain ⟨k, v⟩ := c
    unfold Memory.eraseRange at ih ⊢
    rw [List.filter_cons, Memory.read_cons]
    by_cases hk : lo ≤ k ∧ k < hi
    · rw [if_neg (by simp [hk]), ih]
      by_cases hx : k = x
      · subst hx; simp [hk]
      · simp [hx]
    · have hk' : (!(decide (lo ≤ k) && decide (k < hi))) = true := by
        simp only [Bool.not_eq_true', Bool.and_eq_false_iff, decide_eq_false_iff_not]
        tauto
      rw [if_pos hk', Memory.read_cons, ih]
      by_cases hx : k = x
      · subst hx; simp [hk]
      · simp [hx]

/-- In canonical form a listed address reads as its cell. -/
theorem Memory.read_of_mem {cap : Nat} {m : Memory} (h : m.wf cap) {c : Host.Cell} (hc : c ∈ m) : m.read c.1 = c.2 := by
  induction m with
  | nil => simp at hc
  | cons d m ih =>
    obtain ⟨k, v⟩ := d
    have hk := List.pairwise_cons.mp h.1
    rcases List.mem_cons.mp hc with rfl | hc
    · simp [Memory.read_cons]
    · rw [Memory.read_cons, if_neg (Nat.ne_of_lt (hk.1 c hc)),
        ih ⟨hk.2, fun x hx => h.2 x (by simp [hx])⟩ hc]

end Sys2Proof.Machine
end

