-- ==== Sys2Proof/Laws/Chip.lean ====
section
/-! SUPPORT. The laws of one chip-model instance: what a commit, a read cycle and a pin event can change, and that a commit
and a read cycle keep a legal chip-model state legal (42_chip_model.md R282). -/

namespace Sys2Proof.Machine

/-- The fields no commit and no refresh writes: the socket, the configuration of the instance, the control lines and the
latches. -/
abbrev Chip.SameFrame (c c' : Chip) : Prop :=
  c'.fitted = c.fitted ∧ c'.family = c.family ∧ c'.mfrId = c.mfrId ∧ c'.devId = c.devId ∧
  c'.csAsserted = c.csAsserted ∧ c'.oeAsserted = c.oeAsserted ∧ c'.weAsserted = c.weAsserted ∧ c'.addr = c.addr ∧
  c'.din = c.din ∧ c'.addressLatch = c.addressLatch ∧ c'.dataLatch = c.dataLatch ∧ c'.windowDriven = c.windowDriven

/-- A property that every row of the commit table gives its result is a property of the commit. -/
theorem Chip.commit_cases (cfg : Config) (l : Lane) (c : Chip) (a : Word) (d : Byte) (P : Chip → Prop)
    (hUnlock1 : P c.unlock1) (hResetF0 : P c.resetF0) (hUnlock2 : P c.unlock2) (hId : P c.enterSoftwareId)
    (hData : P c.expectData) (hSetup : P c.setupErase)
    (hBypass : c.algState = .waitingForCommand → c.family = .familyB → P c.enterBypass)
    (hProgram : c.algState = .programmingByte → P (c.program cfg a d)) (hErase1 : P c.eraseUnlock1)
    (hErase2 : P c.eraseUnlock2) (hChip : P c.eraseChip) (hSector : P (c.eraseSector cfg a))
    (hMore : c.algState = .readingStatus → c.family = .familyB → c.batchOpen = true → P (c.eraseSectorMore cfg a))
    (hAbort : P c.abortStatus) (hReset1 : c.algState = .unlockBypass → P c.bypassReset1) (hReset2 : P c.bypassReset2)
    (hFall : P c.fallback) : P (c.commit cfg l a d) := by
  unfold Chip.commit
  split <;> (repeat' split) <;> first | assumption | simp_all

/-- A commit changes none of the frame fields. -/
theorem Chip.commit_frame (cfg : Config) (l : Lane) (c : Chip) (a : Word) (d : Byte) : c.SameFrame (c.commit cfg l a d) := by
  apply Chip.commit_cases <;> intros <;> refine ⟨?_, ?_, ?_, ?_, ?_, ?_, ?_, ?_, ?_, ?_, ?_, ?_⟩ <;> rfl

@[simp] theorem Chip.commit_family (cfg : Config) (l : Lane) (c : Chip) (a : Word) (d : Byte) :
    (c.commit cfg l a d).family = c.family := (c.commit_frame cfg l a d).2.1

@[simp] theorem Chip.commit_fitted (cfg : Config) (l : Lane) (c : Chip) (a : Word) (d : Byte) :
    (c.commit cfg l a d).fitted = c.fitted := (c.commit_frame cfg l a d).1

@[simp] theorem Chip.commit_noise (cfg : Config) (l : Lane) (c : Chip) (a : Word) (d : Byte) :
    (c.commit cfg l a d).noise = c.noise := by
  apply Chip.commit_cases (P := fun c' => c'.noise = c.noise) <;> intros <;> rfl

/-- A refresh changes none of the frame fields. -/
theorem Chip.refresh_frame (c : Chip) : c.SameFrame c.refresh := by
  unfold Chip.refresh Chip.refreshStatus
  repeat' split
  all_goals exact ⟨rfl, rfl, rfl, rfl, rfl, rfl, rfl, rfl, rfl, rfl, rfl, rfl⟩

@[simp] theorem Chip.refresh_family (c : Chip) : c.refresh.family = c.family := c.refresh_frame.2.1

@[simp] theorem Chip.refresh_fitted (c : Chip) : c.refresh.fitted = c.fitted := c.refresh_frame.1

/-- A refresh never changes the content (42_chip_model.md R284 (5)). -/
@[simp] theorem Chip.refresh_content (c : Chip) : c.refresh.content = c.content := by
  unfold Chip.refresh Chip.refreshStatus
  repeat' split
  all_goals rfl

@[simp] theorem Chip.readCycle_family (c : Chip) (a : Word) : (c.readCycle a).family = c.family := by
  simp [Chip.readCycle]

@[simp] theorem Chip.readCycle_fitted (c : Chip) (a : Word) : (c.readCycle a).fitted = c.fitted := by
  simp [Chip.readCycle]

@[simp] theorem Chip.readCycle_content (c : Chip) (a : Word) : (c.readCycle a).content = c.content := by
  simp [Chip.readCycle]

@[simp] theorem Chip.writeCycle_family (cfg : Config) (l : Lane) (c : Chip) (a : Word) (d : Byte) :
    (c.writeCycle cfg l a d).family = c.family := by
  unfold Chip.writeCycle; dsimp only; split <;> simp

@[simp] theorem Chip.writeCycle_fitted (cfg : Config) (l : Lane) (c : Chip) (a : Word) (d : Byte) :
    (c.writeCycle cfg l a d).fitted = c.fitted := by
  unfold Chip.writeCycle; dsimp only; split <;> simp

/-- The base state is one of the three base states, each under its flag (10_state.md R48). -/
theorem Chip.idle_cases (c : Chip) :
    (c.bypassActive = true ∧ c.idle = .unlockBypass) ∨
    (c.bypassActive = false ∧ c.softwareIdActive = true ∧ c.idle = .softwareId) ∨
    (c.bypassActive = false ∧ c.softwareIdActive = false ∧ c.idle = .reading) := by
  unfold Chip.idle
  cases c.bypassActive <;> cases c.softwareIdActive <;> simp

/-- The sector of an index holds the index (42_chip_model.md R278). -/
theorem mem_sectorOf (f : Family) (i : Nat) : (sectorOf f i).1 ≤ i ∧ i < (sectorOf f i).2 := by
  unfold sectorOf
  cases f
  · dsimp only; omega
  · dsimp only
    repeat' split
    all_goals dsimp only; omega

/-- A commit keeps a legal chip-model state legal. -/
theorem Chip.commit_legal {cfg : Config} (hcap : ∀ f, 0 < cfg.cap f) {c : Chip} (h : c.legal cfg) (l : Lane) (a : Word) (d : Byte) :
    (c.commit cfg l a d).legal cfg := by
  have hw := h.2.2.2.2
  have hp : Memory.wf (cfg.cap c.family) (c.content.write (c.index cfg a) (c.content.read (c.index cfg a) &&& d)) :=
    Memory.write_wf hw (Nat.mod_lt _ (hcap _)) _
  have he := Memory.eraseRange_wf hw (sectorOf c.family (c.index cfg a)).1 (sectorOf c.family (c.index cfg a)).2
  obtain ⟨h1, h2, h3, h4, -⟩ := h
  unfold Chip.commit Chip.legal
  split <;> (repeat' split) <;>
    simp_all [Chip.unlock1, Chip.resetF0, Chip.unlock2, Chip.enterSoftwareId, Chip.expectData, Chip.setupErase,
      Chip.enterBypass, Chip.program, Chip.startBusy, Chip.eraseUnlock1, Chip.eraseUnlock2, Chip.eraseChip,
      Chip.eraseSector, Chip.eraseSectorOf, Chip.eraseSectorMore, Chip.abortStatus, Chip.bypassReset1,
      Chip.bypassReset2, Chip.fallback, Chip.idle, Memory.erased] <;>
    grind

/-- A write cycle keeps a legal chip-model state legal. -/
theorem Chip.writeCycle_legal {cfg : Config} (hcap : ∀ f, 0 < cfg.cap f) {c : Chip} (h : c.legal cfg) (l : Lane)
    (a : Word) (d : Byte) : (c.writeCycle cfg l a d).legal cfg := by
  unfold Chip.writeCycle
  dsimp only
  split
  · exact Chip.commit_legal hcap (by exact h) l a d
  · exact h

/-- A refresh keeps a legal chip-model state legal. -/
theorem Chip.refresh_legal {cfg : Config} {c : Chip} (h : c.legal cfg) : c.refresh.legal cfg := by
  obtain ⟨h1, h2, h3, h4, h5⟩ := h
  unfold Chip.refresh Chip.refreshStatus Chip.legal Chip.idle
  repeat' split
  all_goals simp_all
  all_goals grind

/-- A read cycle keeps a legal chip-model state legal. -/
theorem Chip.readCycle_legal {cfg : Config} {c : Chip} (h : c.legal cfg) (a : Word) : (c.readCycle a).legal cfg :=
  Chip.refresh_legal (c := { c with addr := a }) h

/-- What a write cycle does to a socket with a chip in it, and to an empty one (42_chip_model.md R295). -/
theorem Chip.writeCycle_eq (cfg : Config) (l : Lane) (c : Chip) (a : Word) (d : Byte) :
    c.writeCycle cfg l a d =
      if c.fitted then
        ({ c with addr := a, din := none, addressLatch := a, dataLatch := d, windowDriven := true } : Chip).commit cfg l a d
      else { c with addr := a, din := none, addressLatch := a, dataLatch := d, windowDriven := true } := rfl

/-- A pin event that is accepted keeps the instance's configuration. -/
theorem Chip.onPin_config (cfg : Config) (l : Lane) (c c' : Chip) (e : PinEvent) (h : c.onPin cfg l e = .ok c') :
    c'.family = c.family ∧ c'.fitted = c.fitted := by
  unfold Chip.onPin Chip.windowEdge Chip.closeWindow at h
  cases e <;> dsimp only at h <;> (repeat' split at h) <;> simp_all <;> subst h <;> simp [Chip.openWindow]

/-- A pin event that is accepted keeps a legal chip-model state legal. -/
theorem Chip.onPin_legal {cfg : Config} (hcap : ∀ f, 0 < cfg.cap f) (l : Lane) {c c' : Chip} (h : c.legal cfg)
    (e : PinEvent) (he : c.onPin cfg l e = .ok c') : c'.legal cfg := by
  unfold Chip.onPin Chip.windowEdge Chip.closeWindow at he
  cases e <;> dsimp only at he <;> (repeat' split at he) <;> simp only [Except.ok.injEq, reduceCtorEq] at he <;>
    subst he <;>
    first
      | exact h
      | exact Chip.commit_legal hcap (by exact h) _ _ _
      | exact Chip.refresh_legal (c := { c with oeAsserted := _ }) h

end Sys2Proof.Machine
end

