-- ==== Sys2Proof/Laws/Bus.lean ====
section
/-! SUPPORT. The laws of the bus and the sequencer: what a cycle leaves on a lane, what an accepted pin event leaves, how the
completion poll ends, and that a property every bus cycle keeps is kept by every sequencer operation. -/

namespace Sys2Proof.Machine

@[simp] theorem Io.memWrite_get (cfg : Config) (io : Io) (a d : Word) (l : Lane) :
    (io.memWrite cfg a d).chips.get l = (io.chips.get l).writeCycle cfg l (cfg.busAddr a) (lane d l) := by
  simp [Io.memWrite]

@[simp] theorem Io.memRead_get (cfg : Config) (io : Io) (a : Word) (l : Lane) :
    (io.memRead cfg a).2.chips.get l = (io.chips.get l).readCycle (cfg.busAddr a) := by
  simp [Io.memRead]

/-- An accepted pin event is accepted on every lane. -/
theorem pinAll_ok {cfg : Config} {chips chips' : Lanes Chip} {e : PinEvent} (h : pinAll cfg chips e = .ok chips')
    (l : Lane) : (chips.get l).onPin cfg l e = .ok (chips'.get l) := by
  unfold pinAll at h
  split at h
  · rename_i h0 h1 h2 h3
    simp only [Except.ok.injEq] at h
    subst h
    fin_cases l <;> assumption
  all_goals cases h

/-- Going on keeps a property that the continuation keeps. -/
theorem SeqResult.Holds.bind {α β : Type} {P : Io → Prop} {r : SeqResult α} (h : r.Holds P) {k : α → Io → SeqResult β}
    (hk : ∀ x io, P io → (k x io).Holds P) : (r.bind k).Holds P := by
  cases r with
  | done x io => exact hk x io h
  | hang io => exact h
  | timeout => trivial

/-- What a successful poll loop has done: a number of reads of the status address. -/
theorem pollLoop_reads (cfg : Config) (prev : Word) (io : Io) (n : Nat) (io' : Io)
    (h : pollLoop cfg prev io n = some io') :
    ∃ k, 1 ≤ k ∧ k ≤ n ∧ io' = (fun io : Io => (io.memRead cfg cfg.statusAddr).2)^[k] io := by
  induction n generalizing prev io with
  | zero => cases h
  | succ n ih =>
    simp only [pollLoop] at h
    split at h
    · cases h
      exact ⟨1, Nat.le_refl _, by omega, rfl⟩
    · obtain ⟨k, h1, h2, rfl⟩ := ih _ _ h
      exact ⟨k + 1, by omega, by omega, rfl⟩

/-- How the completion poll ends: it has read the status address at least twice; or it never ends, and nothing has moved;
or it has reached a finite bound. -/
theorem waitForCompletion_cases (cfg : Config) (io : Io) :
    (∃ k, 2 ≤ k ∧
      waitForCompletion cfg io = .done () ((fun io : Io => (io.memRead cfg cfg.statusAddr).2)^[k] io)) ∨
    (cfg.maxPolls = none ∧ waitForCompletion cfg io = .hang io) ∨
    (cfg.maxPolls ≠ none ∧ waitForCompletion cfg io = .timeout) := by
  unfold waitForCompletion
  dsimp only
  split
  · split
    · rename_i io' h
      obtain ⟨k, h1, -, rfl⟩ := pollLoop_reads _ _ _ _ _ h
      exact .inl ⟨k + 1, by omega, rfl⟩
    · rename_i hn _ _
      exact .inr (.inl ⟨hn, rfl⟩)
  · rename_i hn
    exact .inr (.inr ⟨by simp [hn], rfl⟩)
  · rename_i hn
    split
    · rename_i io' h
      obtain ⟨k, h1, -, rfl⟩ := pollLoop_reads _ _ _ _ _ h
      exact .inl ⟨k + 1, by omega, rfl⟩
    · exact .inr (.inr ⟨by simp [hn], rfl⟩)

/-- A poll over chips that two read cycles bring back, and that answer the two with different words, never ends. -/
theorem pollNeverEnds_of_alternating {cfg : Config} {io : Io} {x y : Lanes Chip}
    (h0 : io.chips.map (fun _ c => c.readCycle (cfg.busAddr cfg.statusAddr)) = y)
    (hy : y.map (fun _ c => c.readCycle (cfg.busAddr cfg.statusAddr)) = x)
    (hx : x.map (fun _ c => c.readCycle (cfg.busAddr cfg.statusAddr)) = y)
    (hne0 : busWord cfg y cfg.statusAddr ≠ busWord cfg io.chips cfg.statusAddr)
    (hne : busWord cfg y cfg.statusAddr ≠ busWord cfg x cfg.statusAddr) : PollNeverEnds cfg io := by
  have key : ∀ n trace prev,
      (prev ≠ busWord cfg y cfg.statusAddr → pollLoop cfg prev { chips := y, trace := trace } n = none) ∧
      (prev ≠ busWord cfg x cfg.statusAddr → pollLoop cfg prev { chips := x, trace := trace } n = none) := by
    intro n
    induction n with
    | zero => exact fun _ _ => ⟨fun _ => rfl, fun _ => rfl⟩
    | succ n ih =>
      refine fun trace prev => ⟨fun h => ?_, fun h => ?_⟩
      · simpa [pollLoop, Io.memRead, h.symm, hy] using (ih _ _).2 hne
      · simpa [pollLoop, Io.memRead, h.symm, hx] using (ih _ _).1 hne.symm
  intro n
  simpa [Io.memRead, h0] using (key n _ _).1 hne0.symm

section Keeps

variable {cfg : Config} {P : Io → Prop} (hw : ∀ io a d, P io → P (io.memWrite cfg a d))
  (hr : ∀ io a, P io → P (io.memRead cfg a).2)

include hr

/-- The completion poll keeps what every read cycle keeps. -/
theorem waitForCompletion_keeps {io : Io} (h : P io) : (waitForCompletion cfg io).Holds P := by
  have key : ∀ k io, P io → P ((fun io : Io => (io.memRead cfg cfg.statusAddr).2)^[k] io) := by
    intro k
    induction k with
    | zero => exact fun io h => h
    | succ k ih => exact fun io h => ih _ (hr _ _ h)
  rcases waitForCompletion_cases cfg io with ⟨k, -, e⟩ | ⟨-, e⟩ | ⟨-, e⟩ <;> rw [e]
  · exact key k io h
  · exact h
  · trivial

/-- A burst read keeps what every read cycle keeps. -/
theorem burstRead_keeps (n : Nat) {io : Io} (h : P io) (a : Word) : P (io.burstRead cfg a n).2 := by
  induction n generalizing io a with
  | zero => exact h
  | succ n ih => exact ih (hr _ _ h) _

include hw

omit hr in
/-- The unlock pair keeps what every write cycle keeps. -/
theorem seqUnlock_keeps (f : Family) (m : Mask) {io : Io} (h : P io) : P (seqUnlock cfg f m io) := hw _ _ _ (hw _ _ _ h)

omit hr in
/-- The erase prefix keeps what every write cycle keeps. -/
theorem seqErasePrefix_keeps (f : Family) (m : Mask) {io : Io} (h : P io) : P (seqErasePrefix cfg f m io) :=
  seqUnlock_keeps hw f m (hw _ _ _ (seqUnlock_keeps hw f m h))

/-- `identify` keeps what every bus cycle keeps. -/
theorem seqIdentify_keeps (f : Family) {io : Io} (h : P io) : P (seqIdentify cfg f io).2 :=
  hw _ _ _ (hr _ _ (hr _ _ (hw _ _ _ (seqUnlock_keeps hw f allChips h))))

/-- `eraseAll` keeps what every bus cycle keeps. -/
theorem seqEraseAll_keeps (f : Family) (m : Mask) {io : Io} (h : P io) : (seqEraseAll cfg f m io).Holds P :=
  waitForCompletion_keeps hr (hw _ _ _ (seqErasePrefix_keeps hw f m h))

/-- The FamilyA sector loop keeps what every bus cycle keeps. -/
theorem seqEraseSectorsA_keeps (m : Mask) (n : Nat) {io : Io} (h : P io) (a : Word) :
    (seqEraseSectorsA cfg m io a n).Holds P := by
  induction n generalizing io a with
  | zero => exact h
  | succ n ih =>
    exact (waitForCompletion_keeps hr (hw _ _ _ (seqErasePrefix_keeps hw .familyA m h))).bind
      (fun _ _ h => ih h _)

omit hr in
/-- The FamilyB sector cycles keep what every write cycle keeps. -/
theorem seqSectorCyclesB_keeps (m : Mask) (n : Nat) {io : Io} (h : P io) (a : Word) :
    P (seqSectorCyclesB cfg m io a n) := by
  induction n generalizing io a with
  | zero => exact h
  | succ n ih =>
    apply ih
    split
    · exact hw _ _ _ (hw _ _ _ (hw _ _ _ (hw _ _ _ h)))
    · exact hw _ _ _ h

/-- `eraseSectors` keeps what every bus cycle keeps. -/
theorem seqEraseSectors_keeps (f : Family) (m : Mask) {io : Io} (h : P io) (address length : Word) :
    (seqEraseSectors cfg f m io address length).Holds P := by
  unfold seqEraseSectors
  split
  · exact h
  · refine SeqResult.Holds.bind ?_ (fun _ _ h => h)
    cases f
    · exact seqEraseSectorsA_keeps hw hr m _ h _
    · exact waitForCompletion_keeps hr (seqSectorCyclesB_keeps hw m _ (seqErasePrefix_keeps hw .familyB m h) _)

/-- `writeAll` keeps what every bus cycle keeps. -/
theorem seqWriteAll_keeps (f : Family) (ws : List Word) {io : Io} (h : P io) (a : Word) :
    (seqWriteAll cfg f io a ws).Holds P := by
  cases f with
  | familyA =>
    change (seqWriteAllA cfg io a ws).Holds P
    induction ws generalizing io a with
    | nil => exact h
    | cons w ws ih =>
      exact (waitForCompletion_keeps hr (hw _ _ _ (hw _ _ _ (seqUnlock_keeps hw .familyA allChips h)))).bind
        (fun _ _ h => ih h _)
  | familyB =>
    have loop : ∀ (ws : List Word) (io : Io) (a : Word), P io → (seqBypassAll cfg io a ws).Holds P := by
      intro ws
      induction ws with
      | nil => exact fun io a h => h
      | cons w ws ih =>
        exact fun io a h => (waitForCompletion_keeps hr (hw _ _ _ (hw _ _ _ h))).bind (fun _ _ h => ih _ _ h)
    exact (loop ws _ a (hw _ _ _ (seqUnlock_keeps hw .familyB allChips h))).bind
      (fun _ _ h => hw _ _ _ (hw _ _ _ h))

/-- `writeSome` keeps what every bus cycle keeps. -/
theorem seqWriteSome_keeps (f : Family) (m : Mask) (ws : List Word) {io : Io} (h : P io) (a : Word) :
    (seqWriteSome cfg f m io a ws).Holds P := by
  cases f with
  | familyA =>
    change (seqWriteSomeA cfg m io a ws).Holds P
    induction ws generalizing io a with
    | nil => exact h
    | cons w ws ih =>
      exact (waitForCompletion_keeps hr (hw _ _ _ (hw _ _ _ (seqUnlock_keeps hw .familyA m h)))).bind
        (fun _ _ h => ih h _)
  | familyB =>
    have loop : ∀ (ws : List Word) (io : Io) (a : Word), P io → (seqBypassSome cfg m io a ws).Holds P := by
      intro ws
      induction ws with
      | nil => exact fun io a h => h
      | cons w ws ih =>
        exact fun io a h => (waitForCompletion_keeps hr (hw _ _ _ (hw _ _ _ h))).bind (fun _ _ h => ih _ _ h)
    exact (loop ws _ a (hw _ _ _ (seqUnlock_keeps hw .familyB m h))).bind
      (fun _ _ h => hw _ _ _ (hw _ _ _ h))

end Keeps

end Sys2Proof.Machine
end

