-- ==== Sys2Proof/Laws/Ops.lean ====
section
/-! SUPPORT. The laws of the shared operations over the state: how a call of the sequencer can end, what a change of one
lane's chip leaves, what an electrical test may leave, and how a step can end. -/

namespace Sys2Proof.Machine

/-- How a call of a sequencer operation answers a next state: the operation has ended and the rest of the step answers it,
or the operation never ends and the block is left hung. -/
theorem State.afterSeq_next {α : Type} {s t : State} {r : SeqResult α}
    {k : α → State → Host.Outcome State Fault Refusal} (h : s.afterSeq r k = .next t) :
    (∃ x io, r = .done x io ∧ k x { s with io := io } = .next t) ∨
    (∃ io, r = .hang io ∧ t = { s with io := io, hung := true }) := by
  cases r with
  | done x io => exact .inl ⟨x, io, rfl, h⟩
  | hang io => exact .inr ⟨io, rfl, by cases h; rfl⟩
  | timeout => cases h

/-- What the chip on a lane is after a change of one lane's chip. -/
theorem State.onLane_get (s : State) (l : Lane) (f : Chip → Chip) (k : Lane) :
    (s.onLane l f).io.chips.get k =
      if k = l ∧ (s.io.chips.get l).fitted = true then f (s.io.chips.get l) else s.io.chips.get k := by
  unfold State.onLane
  by_cases hf : (s.io.chips.get l).fitted = true
  · by_cases hk : k = l
    · subst hk; simp [hf]
    · simp [hf, hk, Lanes.get_set_ne]
  · simp [hf]

/-- A change of one lane's chip changes nothing but the chips. -/
theorem State.onLane_rest (s : State) (l : Lane) (f : Chip → Chip) :
    s.onLane l f = { s with io := { s.io with chips := (s.onLane l f).io.chips } } := by
  unfold State.onLane
  split <;> rfl

/-- A chip after an electrical test is as it was, or in the drawn state, which is then a legal one. -/
theorem Chip.afterElectricalTest_cases (cfg : Config) (c : Chip) (t : ChipTouch) :
    c.afterElectricalTest cfg t = c ∨
      (c.afterElectricalTest cfg t = c.touched t ∧ (c.afterElectricalTest cfg t).legal cfg) := by
  unfold Chip.afterElectricalTest
  split
  · exact .inr ⟨rfl, by assumption⟩
  · exact .inl rfl

/-- Everything a step can be, where it answers a next state: the power cycle, an accepted pin event, a poll that found no
byte, or one instruction, run with its byte taken. -/
theorem step_cases {s t : State} (h : step s = .next t) :
    (∃ rest, s.bench = .powerCycle :: rest ∧ t = s.powerCycle rest) ∨
    (∃ e rest chips, s.bench = .pin e :: rest ∧ s.hung = false ∧ pinAll s.cfg s.io.chips e = .ok chips ∧
      t = { s with bench := rest, io := { s.io with chips := chips } }) ∨
    (s.bench = [] ∧ s.hung = false ∧ decode s.cfg s.ctx s.rx = .error .noByte ∧ t = s) ∨
    (∃ i rest, s.bench = [] ∧ s.hung = false ∧ decode s.cfg s.ctx s.rx = .ok (i, rest) ∧
      exec i { s with rx := rest } = .next t) := by
  unfold step State.nextWork State.dispatcherWork at h
  split at h
  · rename_i i s' hw
    repeat' split at hw
    all_goals cases hw
    exact .inr (.inr (.inr ⟨_, _, by assumption, by simp_all, by assumption, h⟩))
  · rename_i s' hw
    cases h
    repeat' split at hw
    all_goals cases hw
    · exact .inl ⟨_, by assumption, rfl⟩
    · exact .inr (.inl ⟨_, _, _, by assumption, by simp_all, by assumption, rfl⟩)
    · exact .inr (.inr (.inl ⟨by assumption, by simp_all, by assumption, rfl⟩))
  · cases h
  · cases h

end Sys2Proof.Machine
end

