-- ==== Sys2Proof/Laws/PerInstr.lean ====
section
/-! SUPPORT. The family of statements TableMatch, one per constructor: under the default codes an instruction is one byte,
which agrees with its row of spec/opcode_table.json on the bits the row fixes. -/

namespace Sys2Proof

/-- The bits the row of spec/opcode_table.json fixes ("mask"). -/
def Instr.tableMask : Instr → Byte
  | .unassignedDefault _ | .fieldReadStart _ | .fieldReadLength _ | .fieldWriteStart _ | .fieldErasePosLen _
  | .maskByte _ | .chunkBodyByte _ | .readAckOther _ | .writeCtlOther _ | .jcProgramData _ _ _ | .jcOther _ _ _ => 0x00
  | .enterIdle | .electricalTest | .identify | .readByte | .readChips | .eraseChips | .writeChips
  | .getBootloaderState | .enterBootloader | .enterProgrammer | .selectFamilyA | .selectFamilyB | .enableVerify
  | .disableVerify | .erasePortion | .writeChipsAt | .readChipsAt | .setChipMask | .unassigned0A
  | .computerReadOK | .computerReadCancel | .computerWriteMore | .computerWriteFinish | .computerWriteCancel
  | .jcUnlock1 _ _ | .jcResetF0 _ _ | .jcUnlock2 _ _ | .jcSoftwareId _ _ | .jcProgram _ _ | .jcEraseSetup _ _
  | .jcBypassEnter _ _ | .jcResetF0Cmd _ _ | .jcEraseUnlock1 _ _ | .jcEraseUnlock2 _ _ | .jcChipErase _ _
  | .jcSectorErase _ _ | .jcSectorEraseMore _ _ | .jcBypassProgram _ _ | .jcBypassReset1 _ _
  | .jcBypassReset2 _ _ => 0xFF

/-- The values of the fixed bits ("match"). -/
def Instr.tableMatch : Instr → Byte
  | .enterIdle | .unassignedDefault _ | .fieldReadStart _ | .fieldReadLength _ | .fieldWriteStart _
  | .fieldErasePosLen _ | .maskByte _ | .chunkBodyByte _ | .computerReadOK | .readAckOther _
  | .computerWriteMore | .writeCtlOther _ | .jcProgramData _ _ _ | .jcBypassReset2 _ _ | .jcOther _ _ _ => 0x00
  | .electricalTest | .computerReadCancel | .computerWriteFinish => 0x01
  | .identify | .computerWriteCancel => 0x02
  | .readByte => 0x03
  | .readChips => 0x04
  | .eraseChips => 0x05
  | .writeChips => 0x06
  | .getBootloaderState => 0x07
  | .enterBootloader => 0x08
  | .enterProgrammer => 0x09
  | .selectFamilyA => 0x0B
  | .selectFamilyB => 0x0C
  | .enableVerify => 0x0D
  | .disableVerify => 0x0E
  | .erasePortion => 0x0F
  | .writeChipsAt | .jcChipErase _ _ => 0x10
  | .readChipsAt => 0x11
  | .setChipMask => 0x12
  | .unassigned0A => 0x0A
  | .jcUnlock1 _ _ | .jcEraseUnlock1 _ _ => 0xAA
  | .jcResetF0 _ _ | .jcResetF0Cmd _ _ => 0xF0
  | .jcUnlock2 _ _ | .jcEraseUnlock2 _ _ => 0x55
  | .jcSoftwareId _ _ | .jcBypassReset1 _ _ => 0x90
  | .jcProgram _ _ | .jcBypassProgram _ _ => 0xA0
  | .jcEraseSetup _ _ => 0x80
  | .jcBypassEnter _ _ => 0x20
  | .jcSectorErase _ _ | .jcSectorEraseMore _ _ => 0x30

/-- Under the default parameters the first key is 0xAA on every lane (30_encoding.md R120). -/
theorem Config.standard_k1 : ∀ l : Lane, Config.standard.k1 l = 0xAA := by decide

/-- Under the default parameters the second key is 0x55 on every lane (30_encoding.md R120). -/
theorem Config.standard_k2 : ∀ l : Lane, Config.standard.k2 l = 0x55 := by decide

namespace Laws.TableMatch

/-- The instruction is one byte under the default codes, and the byte agrees with the row of the opcode table. -/
def Statement (i : Instr) : Prop := ∃ b, encode Config.standard i = [b] ∧ b &&& i.tableMask = i.tableMatch

theorem enterIdle : Statement (.enterIdle) := ⟨_, rfl, rfl⟩
theorem electricalTest : Statement (.electricalTest) := ⟨_, rfl, rfl⟩
theorem identify : Statement (.identify) := ⟨_, rfl, rfl⟩
theorem readByte : Statement (.readByte) := ⟨_, rfl, rfl⟩
theorem readChips : Statement (.readChips) := ⟨_, rfl, rfl⟩
theorem eraseChips : Statement (.eraseChips) := ⟨_, rfl, rfl⟩
theorem writeChips : Statement (.writeChips) := ⟨_, rfl, rfl⟩
theorem getBootloaderState : Statement (.getBootloaderState) := ⟨_, rfl, rfl⟩
theorem enterBootloader : Statement (.enterBootloader) := ⟨_, rfl, rfl⟩
theorem enterProgrammer : Statement (.enterProgrammer) := ⟨_, rfl, rfl⟩
theorem selectFamilyA : Statement (.selectFamilyA) := ⟨_, rfl, rfl⟩
theorem selectFamilyB : Statement (.selectFamilyB) := ⟨_, rfl, rfl⟩
theorem enableVerify : Statement (.enableVerify) := ⟨_, rfl, rfl⟩
theorem disableVerify : Statement (.disableVerify) := ⟨_, rfl, rfl⟩
theorem erasePortion : Statement (.erasePortion) := ⟨_, rfl, rfl⟩
theorem writeChipsAt : Statement (.writeChipsAt) := ⟨_, rfl, rfl⟩
theorem readChipsAt : Statement (.readChipsAt) := ⟨_, rfl, rfl⟩
theorem setChipMask : Statement (.setChipMask) := ⟨_, rfl, rfl⟩
theorem unassigned0A : Statement (.unassigned0A) := ⟨_, rfl, rfl⟩
theorem unassignedDefault (opcode : Byte) : Statement (.unassignedDefault opcode) := ⟨opcode, rfl, BitVec.and_zero⟩
theorem fieldReadStart (data : Byte) : Statement (.fieldReadStart data) := ⟨data, rfl, BitVec.and_zero⟩
theorem fieldReadLength (data : Byte) : Statement (.fieldReadLength data) := ⟨data, rfl, BitVec.and_zero⟩
theorem fieldWriteStart (data : Byte) : Statement (.fieldWriteStart data) := ⟨data, rfl, BitVec.and_zero⟩
theorem fieldErasePosLen (data : Byte) : Statement (.fieldErasePosLen data) := ⟨data, rfl, BitVec.and_zero⟩
theorem maskByte (data : Byte) : Statement (.maskByte data) := ⟨data, rfl, BitVec.and_zero⟩
theorem chunkBodyByte (data : Byte) : Statement (.chunkBodyByte data) := ⟨data, rfl, BitVec.and_zero⟩
theorem computerReadOK : Statement (.computerReadOK) := ⟨_, rfl, rfl⟩
theorem computerReadCancel : Statement (.computerReadCancel) := ⟨_, rfl, rfl⟩
theorem readAckOther (data : Byte) : Statement (.readAckOther data) := ⟨data, rfl, BitVec.and_zero⟩
theorem computerWriteMore : Statement (.computerWriteMore) := ⟨_, rfl, rfl⟩
theorem computerWriteFinish : Statement (.computerWriteFinish) := ⟨_, rfl, rfl⟩
theorem computerWriteCancel : Statement (.computerWriteCancel) := ⟨_, rfl, rfl⟩
theorem writeCtlOther (data : Byte) : Statement (.writeCtlOther data) := ⟨data, rfl, BitVec.and_zero⟩
theorem jcUnlock1 (lane : Lane) (addr : Word) : Statement (.jcUnlock1 lane addr) :=
  ⟨_, rfl, (BitVec.and_allOnes).trans (Config.standard_k1 lane)⟩
theorem jcResetF0 (lane : Lane) (addr : Word) : Statement (.jcResetF0 lane addr) :=
  ⟨_, rfl, BitVec.and_allOnes⟩
theorem jcUnlock2 (lane : Lane) (addr : Word) : Statement (.jcUnlock2 lane addr) :=
  ⟨_, rfl, (BitVec.and_allOnes).trans (Config.standard_k2 lane)⟩
theorem jcSoftwareId (lane : Lane) (addr : Word) : Statement (.jcSoftwareId lane addr) :=
  ⟨_, rfl, BitVec.and_allOnes⟩
theorem jcProgram (lane : Lane) (addr : Word) : Statement (.jcProgram lane addr) :=
  ⟨_, rfl, BitVec.and_allOnes⟩
theorem jcEraseSetup (lane : Lane) (addr : Word) : Statement (.jcEraseSetup lane addr) :=
  ⟨_, rfl, BitVec.and_allOnes⟩
theorem jcBypassEnter (lane : Lane) (addr : Word) : Statement (.jcBypassEnter lane addr) :=
  ⟨_, rfl, BitVec.and_allOnes⟩
theorem jcResetF0Cmd (lane : Lane) (addr : Word) : Statement (.jcResetF0Cmd lane addr) :=
  ⟨_, rfl, BitVec.and_allOnes⟩
theorem jcProgramData (lane : Lane) (addr : Word) (data : Byte) : Statement (.jcProgramData lane addr data) :=
  ⟨data, rfl, BitVec.and_zero⟩
theorem jcEraseUnlock1 (lane : Lane) (addr : Word) : Statement (.jcEraseUnlock1 lane addr) :=
  ⟨_, rfl, (BitVec.and_allOnes).trans (Config.standard_k1 lane)⟩
theorem jcEraseUnlock2 (lane : Lane) (addr : Word) : Statement (.jcEraseUnlock2 lane addr) :=
  ⟨_, rfl, (BitVec.and_allOnes).trans (Config.standard_k2 lane)⟩
theorem jcChipErase (lane : Lane) (addr : Word) : Statement (.jcChipErase lane addr) :=
  ⟨_, rfl, BitVec.and_allOnes⟩
theorem jcSectorErase (lane : Lane) (addr : Word) : Statement (.jcSectorErase lane addr) :=
  ⟨_, rfl, BitVec.and_allOnes⟩
theorem jcSectorEraseMore (lane : Lane) (addr : Word) : Statement (.jcSectorEraseMore lane addr) :=
  ⟨_, rfl, BitVec.and_allOnes⟩
theorem jcBypassProgram (lane : Lane) (addr : Word) : Statement (.jcBypassProgram lane addr) :=
  ⟨_, rfl, BitVec.and_allOnes⟩
theorem jcBypassReset1 (lane : Lane) (addr : Word) : Statement (.jcBypassReset1 lane addr) :=
  ⟨_, rfl, BitVec.and_allOnes⟩
theorem jcBypassReset2 (lane : Lane) (addr : Word) : Statement (.jcBypassReset2 lane addr) :=
  ⟨_, rfl, BitVec.and_allOnes⟩
theorem jcOther (lane : Lane) (addr : Word) (data : Byte) : Statement (.jcOther lane addr data) :=
  ⟨data, rfl, BitVec.and_zero⟩

end Laws.TableMatch

end Sys2Proof
end

