-- ==== Sys2Proof/Tests/Slice0.lean ====
section
/-! SUPPORT. Tests: the well-formedness smoke test, decoding of bytes written out from the tables of 30_encoding.md,
single steps whose expected results are the vectors of 95_test_vectors.md (the section is named in each docstring), and a
witness for the hypotheses of each statement that has some. -/

namespace Sys2Proof.Tests

open Sys2Proof.Machine

/-! ### Helpers -/

/-- The reset state with bytes in RX. -/
def idle (rx : List Byte) : State := { State.reset with rx := rx }

/-- What one step leaves of a state, seen through `f`. -/
def after {α : Type} (s : State) (f : State → α) : Option α :=
  match step s with
  | .next t => some (f t)
  | .fault _ => none
  | .refused _ => none

/-- The replies and the control state one step leaves. -/
def replies (s : State) : Option (List TxItem × ControlState) := after s (fun t => (t.io.txStream, t.control))

/-- Reply bytes as items of TX. -/
def bytes (bs : List Byte) : List TxItem := bs.map .byte

/-- The lane contexts of section 2.7: an address already reduced, no batch open. -/
def cyc (f : Family) (st : AlgState) (a : Word) : Ctx := .lane 2 f st false a

/-- A state with one chip record on lane 2. -/
def withLane2 (c : Chip) : State := State.reset.withChip 2 c

/-- A chip of a family in a chip-model state, erased. -/
def chipIn (f : Family) (st : AlgState) : Chip := { Chip.fresh f 0x00 0x00 Memory.erased with algState := st }

/-- The chip on lane 2 after one byte at an address. -/
def lane2After (c : Chip) (a : Word) (d : Byte) : Option Chip :=
  match exec (decodeLane Config.standard 2 c.family c.algState c.batchOpen a d) (withLane2 c) with
  | .next t => some (t.io.chips.get 2)
  | .fault _ => none
  | .refused _ => none

/-- The chip-model state on lane 2 after one byte at an address. -/
def lane2State (f : Family) (st : AlgState) (a : Word) (d : Byte) : Option AlgState :=
  (lane2After (chipIn f st) a d).map (fun c => c.algState)

/-- Four erased FamilyB chips. -/
def chipsB : Lanes Chip := Lanes.same (Chip.fresh .familyB 0x00 0x00 Memory.erased)

/-! ### Well-formedness refuses ill-formed terms -/

/-- A command out of its control state; a byte that is another row's; a field, an acknowledgement or a body byte out of
its state. -/
theorem test_wf_refuses_host :
    Instr.enterIdle.wellFormed Config.standard (.host .readingChips false) = false ∧
    (Instr.unassignedDefault 0x05).wellFormed Config.standard (.host .waitingForCommand false) = false ∧
    (Instr.unassignedDefault 0x0A).wellFormed Config.standard (.host .waitingForCommand false) = false ∧
    Instr.unassigned0A.wellFormed
      { Config.standard with command := { defaultCommands with identify := 0x0A } }
      (.host .waitingForCommand false) = false ∧
    (Instr.fieldReadStart 0).wellFormed Config.standard (.host .readingChipsReadLength false) = false ∧
    (Instr.fieldReadLength 0).wellFormed Config.standard (.host .readingChipsReadStartPos false) = false ∧
    (Instr.fieldWriteStart 0).wellFormed Config.standard (.host .writingChips false) = false ∧
    (Instr.fieldErasePosLen 0).wellFormed Config.standard (.host .waitingForCommand false) = false ∧
    (Instr.maskByte 0).wellFormed Config.standard (.host .waitingForCommand false) = false ∧
    (Instr.chunkBodyByte 0).wellFormed Config.standard (.host .writingChips false) = false ∧
    Instr.computerReadOK.wellFormed Config.standard (.host .writingChips false) = false ∧
    (Instr.readAckOther 0x01).wellFormed Config.standard (.host .readingChips false) = false ∧
    Instr.computerWriteMore.wellFormed Config.standard (.host .writingChips true) = false ∧
    (Instr.writeCtlOther 0x02).wellFormed Config.standard (.host .writingChips false) = false := by decide

/-- A lane row at another address, in another chip state, on another lane, for the other family, without a batch, and
JC_OTHER where a row matches. -/
theorem test_wf_refuses_lane :
    (Instr.jcUnlock1 2 0x005554).wellFormed Config.standard (cyc .familyA .reading 0x005554) = false ∧
    (Instr.jcUnlock1 1 0x155555).wellFormed Config.standard (cyc .familyA .reading 0x155555) = false ∧
    (Instr.jcUnlock1 2 0x155555).wellFormed Config.standard (cyc .familyA .unlocking 0x155555) = false ∧
    (Instr.jcResetF0 2 0).wellFormed Config.standard (cyc .familyA .unlocking 0) = false ∧
    (Instr.jcUnlock2 2 0x155555).wellFormed Config.standard (cyc .familyA .unlocking 0x155555) = false ∧
    (Instr.jcProgram 2 0).wellFormed Config.standard (cyc .familyA .waitingForCommand 0) = false ∧
    (Instr.jcBypassEnter 2 0x155555).wellFormed Config.standard (cyc .familyA .waitingForCommand 0x155555) = false ∧
    (Instr.jcChipErase 2 0).wellFormed Config.standard (cyc .familyA .eraseWaitingForCommand 0) = false ∧
    (Instr.jcSectorEraseMore 2 0).wellFormed Config.standard (cyc .familyB .readingStatus 0) = false ∧
    (Instr.jcSectorEraseMore 2 0).wellFormed Config.standard (.lane 2 .familyA .readingStatus true 0) = false ∧
    (Instr.jcBypassReset2 2 0).wellFormed Config.standard (cyc .familyB .unlockBypass 0) = false ∧
    (Instr.jcOther 2 0 0xF0).wellFormed Config.standard (cyc .familyA .reading 0) = false ∧
    (Instr.jcOther 2 0 0x3C).wellFormed Config.standard (cyc .familyA .programmingByte 0) = false := by decide

/-! ### Decoding of written-out bytes -/

/-- The instruction a byte is in a context, under the default parameters. -/
def reads (ctx : Ctx) (b : Byte) : Option Instr := (decode Config.standard ctx [b]).toOption.map (fun x => x.1)

/-- The command bytes (30_encoding.md R101), and two unassigned ones (R102). -/
theorem test_decode_commands :
    [0x00, 0x01, 0x02, 0x03, 0x04, 0x05, 0x06, 0x07, 0x08, 0x09, 0x0A, 0x0B, 0x0C, 0x0D, 0x0E, 0x0F, 0x10, 0x11, 0x12,
      0x13, 0xFF].map (decodeTableWord 8) =
    [Instr.enterIdle, .electricalTest, .identify, .readByte, .readChips, .eraseChips, .writeChips, .getBootloaderState,
      .enterBootloader, .enterProgrammer, .unassigned0A, .selectFamilyA, .selectFamilyB, .enableVerify, .disableVerify,
      .erasePortion, .writeChipsAt, .readChipsAt, .setChipMask, .unassignedDefault 0x13, .unassignedDefault 0xFF].map
      some := by decide

/-- The field, mask and body bytes (30_encoding.md R104, R107, R108), and the acknowledgements and control bytes (R105,
R106), each in its state. -/
theorem test_decode_fields_and_acks :
    reads (.host .readingChipsReadStartPos false) 0xFC = some (.fieldReadStart 0xFC) ∧
    reads (.host .readingChipsReadLength false) 0x04 = some (.fieldReadLength 0x04) ∧
    reads (.host .writingChipsReadingStartPos false) 0x01 = some (.fieldWriteStart 0x01) ∧
    reads (.host .erasePortionReadingPosLength false) 0x04 = some (.fieldErasePosLen 0x04) ∧
    reads (.host .readingChipsMask false) 0x01 = some (.maskByte 0x01) ∧
    reads (.host .writingChips true) 0x02 = some (.chunkBodyByte 0x02) ∧
    reads (.host .readingChips false) 0x00 = some .computerReadOK ∧
    reads (.host .readingChips false) 0x01 = some .computerReadCancel ∧
    reads (.host .readingChips false) 0x05 = some (.readAckOther 0x05) ∧
    reads (.host .writingChips false) 0x00 = some .computerWriteMore ∧
    reads (.host .writingChips false) 0x01 = some .computerWriteFinish ∧
    reads (.host .writingChips false) 0x02 = some .computerWriteCancel ∧
    reads (.host .writingChips false) 0x05 = some (.writeCtlOther 0x05) ∧
    reads (.host .handedOff false) 0x00 = none := by decide

/-- The lane bytes (30_encoding.md R122; 95_test_vectors.md 2.7). -/
theorem test_decode_lane_rows :
    reads (cyc .familyA .reading 0x00D555) 0xAA = some (.jcUnlock1 2 0x00D555) ∧
    reads (cyc .familyA .softwareId 0x000123) 0xF0 = some (.jcResetF0 2 0x000123) ∧
    reads (cyc .familyA .unlocking 0x0AAAAA) 0x55 = some (.jcUnlock2 2 0x0AAAAA) ∧
    reads (cyc .familyA .waitingForCommand 0x155555) 0x90 = some (.jcSoftwareId 2 0x155555) ∧
    reads (cyc .familyA .waitingForCommand 0x155555) 0xA0 = some (.jcProgram 2 0x155555) ∧
    reads (cyc .familyA .waitingForCommand 0x155555) 0x80 = some (.jcEraseSetup 2 0x155555) ∧
    reads (cyc .familyB .waitingForCommand 0x0AAAAA) 0x20 = some (.jcBypassEnter 2 0x0AAAAA) ∧
    reads (cyc .familyA .waitingForCommand 0x155555) 0x20 = some (.jcOther 2 0x155555 0x20) ∧
    reads (cyc .familyA .waitingForCommand 0x000000) 0xF0 = some (.jcResetF0Cmd 2 0) ∧
    reads (cyc .familyA .programmingByte 0x080005) 0x3C = some (.jcProgramData 2 0x080005 0x3C) ∧
    reads (cyc .familyA .eraseUnlocking1 0x155555) 0xAA = some (.jcEraseUnlock1 2 0x155555) ∧
    reads (cyc .familyA .eraseUnlocking2 0x0AAAAA) 0x55 = some (.jcEraseUnlock2 2 0x0AAAAA) ∧
    reads (cyc .familyA .eraseWaitingForCommand 0x155555) 0x10 = some (.jcChipErase 2 0x155555) ∧
    reads (cyc .familyA .eraseWaitingForCommand 0x001234) 0x30 = some (.jcSectorErase 2 0x001234) ∧
    reads (.lane 2 .familyB .readingStatus true 0x030000) 0x30 = some (.jcSectorEraseMore 2 0x030000) ∧
    reads (cyc .familyB .unlockBypass 0) 0xA0 = some (.jcBypassProgram 2 0) ∧
    reads (cyc .familyB .unlockBypass 0) 0x90 = some (.jcBypassReset1 2 0) ∧
    reads (cyc .familyB .bypassReset 0) 0x00 = some (.jcBypassReset2 2 0) ∧
    reads (cyc .familyA .readingStatus 0x002000) 0x30 = some (.jcOther 2 0x002000 0x30) := by
  decide

/-! ### The helpers (95_test_vectors.md 2.1) -/

theorem test_lane_masks :
    rep 0xA0 = 0xA0A0A0A0 ∧ laneMask 0b0001 = 0x000000FF ∧ laneMask 0b0110 = 0x00FFFF00 ∧
    laneMask 0b1001 = 0xFF0000FF ∧ cmdWord 0x30 0b0101 = 0x00300030 ∧ cmdWord 0x80 0b1000 = 0x80000000 := by decide

theorem test_rev4 :
    ([0, 1, 2, 3, 4, 5, 6, 7, 8, 9, 10, 11, 12, 13, 14, 15] : List Mask).map rev4 =
      [0, 8, 4, 12, 2, 10, 6, 14, 1, 9, 5, 13, 3, 11, 7, 15] := by decide

theorem test_link_orders :
    pack 0x11 0x22 0x33 0x44 = 0x11223344 ∧ unpack 0xDEADBEEF = [0xDE, 0xAD, 0xBE, 0xEF] ∧
    le32 0x78 0x56 0x34 0x12 = 0x12345678 ∧ le32 0x00 0x04 0x00 0x00 = 0x00000400 := by decide

/-! ### The dispatcher's steps (95_test_vectors.md 2.4 to 2.6) -/

/-- Section 2.4. -/
theorem test_immediate_commands :
    [0x00, 0x03, 0x07, 0x09, 0x0A, 0x7F].map (fun b => replies (idle [b])) =
      [[0x00], [0x02], [0x00, 0x01], [0x00], [0x02], [0x02]].map
        (fun bs => some (bytes bs, ControlState.waitingForCommand)) := by decide

/-- Section 2.4. -/
theorem test_opening_commands :
    [0x04, 0x06, 0x0F, 0x10, 0x11, 0x12].map (fun b => replies (idle [b])) =
      [.readingChipsReadLength, .writingChips, .erasePortionReadingPosLength, .writingChipsReadingStartPos,
        .readingChipsReadStartPos, .readingChipsMask].map (fun c => some (bytes [0x00], c)) := by decide

/-- Section 2.4. -/
theorem test_selections :
    after (idle [0x0B]) (fun t => t.family) = some .familyA ∧ after (idle [0x0C]) (fun t => t.family) = some .familyB ∧
    after (idle [0x0D]) (fun t => t.verify) = some true ∧
    after { idle [0x0E] with verify := true } (fun t => t.verify) = some false := by decide

/-- Section 2.4. -/
theorem test_enter_bootloader :
    replies (idle [0x08]) = some ([.byte 0x00, .flush], .handedOff) ∧
    step { idle [0x00] with control := .handedOff } = .refused .handedOff := ⟨by decide, rfl⟩

/-- Section 2.4, the reported pairs (3, 7) and (0, 31). -/
theorem test_electrical_test :
    replies { idle [0x01] with etest := [{ fails := [(3, 7), (0, 31)], touched := none }] } =
      some ([.byte 0x00, .flush, .byte 0x00, .byte 0x03, .byte 0x07, .byte 0x00, .byte 0x00, .byte 0x1F, .byte 0x01],
        .waitingForCommand) := by decide

/-- Part 1, S4, over distinguishable chips. -/
theorem test_identify :
    after { idle [0x02] with io := { State.reset.io with
        chips := { l3 := Chip.fresh .familyA 0x01 0xA4 [], l2 := Chip.fresh .familyA 0xC2 0xD5 [],
                   l1 := Chip.fresh .familyA 0xBF 0xB7 [], l0 := Chip.fresh .familyA 0x1F 0x13 [] } } }
      (fun t => t.io.trace) =
    some [.tx 0x00, .write 0x55555555 0xAAAAAAAA, .write 0xAAAAAAAA 0x55555555, .write 0x55555555 0x90909090,
      .read 0 0x01C2BF1F, .read 1 0xA4D5B713, .write 0 0xF0F0F0F0, .tx 0x01, .tx 0xA4, .tx 0xC2, .tx 0xD5, .tx 0xBF,
      .tx 0xB7, .tx 0x1F, .tx 0x13, .tx 0x00] := by decide

/-- Part 1, S1: the cycles of a chip erase, and the reply after the last read. -/
theorem test_erase_chips :
    after { idle [0x05] with io := { State.reset.io with chips := Lanes.same (Chip.fresh .familyA 0 0 [(5, 0x12)]) } }
      (fun t => (t.io.trace, t.io.chips.l1.content)) =
    some ([.write 0x55555555 0xAAAAAAAA, .write 0xAAAAAAAA 0x55555555, .write 0x55555555 0x80808080,
      .write 0x55555555 0xAAAAAAAA, .write 0xAAAAAAAA 0x55555555, .write 0x55555555 0x10101010,
      .read 0 0xFFFFFFFF, .read 0 0xFFFFFFFF, .tx 0x00], []) := by decide

/-- Section 2.5, the mask bytes. -/
theorem test_mask_byte :
    [0x00, 0x05, 0x0F, 0x10, 0xFF].map (fun b =>
      after { idle [b] with control := .readingChipsMask } (fun t => (t.chipMask, t.io.txStream))) =
    [((0b0000 : Mask), bytes [0x00]), (0b0101, bytes [0x00]), (0b1111, bytes [0x00]), (0b1111, bytes [0x01]),
      (0b1111, bytes [0x01])].map some := by decide

/-- Section 2.5, field assembly: the bytes 00 FC 7F 00. -/
theorem test_field_assembly :
    [((0 : Word), (0 : BitVec 4), (0x00 : Byte)), (0, 1, 0xFC), (0xFC00, 2, 0x7F), (0x7FFC00, 3, 0x00)].map (fun x =>
      after { idle [x.2.2] with control := .readingChipsReadStartPos, pos := x.1, cnt := x.2.1 }
        (fun t => (t.pos, t.cnt, t.control))) =
    [((0 : Word), (1 : BitVec 4), ControlState.readingChipsReadStartPos), (0xFC00, 2, .readingChipsReadStartPos),
      (0x7FFC00, 3, .readingChipsReadStartPos), (0x7FFC00, 0, .readingChipsReadLength)].map some := by decide

/-- Section 2.5, the read requests: which are accepted. -/
theorem test_read_requests :
    [((0 : Word), (0 : Word)), (0, 0x400), (0, 0x3FF), (0, 0x401), (0x200, 0x400), (0x400, 0x800), (0x7FFC00, 0x400),
      (0x7FFC00, 0x800), (0, 0x800000), (0, 0x800400), (0x800000, 0x400), (0xFFFFFC00, 0x800)].map (fun x =>
        ({ State.reset with pos := x.1, len := x.2 } : State).readRequestOk) =
    [false, true, false, false, false, true, true, false, true, false, false, false] := by decide

/-- Section 2.5, a refused length; part 2.5, first line. -/
theorem test_read_length_refused :
    replies { idle [0x00] with control := .readingChipsReadLength, cnt := 3 } =
      some (bytes [0x01], .waitingForCommand) := by decide

/-- Section 2.5, the cursors of accepted requests. -/
theorem test_read_cursors :
    chunkOf 0x400 = 1 ∧ chunkOf (0x400 + 0x800) = 3 ∧ chunkOf 0x7FFC00 = 0x1FFF ∧ chunkOf 0x800000 = 0x2000 ∧
    chunkStart 4 = 0x400 := by decide

/-- Section 2.5, the write starts: the reply, the state and the cursor at the fourth byte. -/
theorem test_write_starts :
    [((0 : Word), (0x00 : Byte)), (0x400, 0), (0x3FF, 0), (0x7FFC00, 0), (0x800000, 0), (0xFFFC00, 0xFF)].map (fun x =>
      after { idle [x.2] with control := .writingChipsReadingStartPos, pos := x.1, cnt := 3 }
        (fun t => (t.io.txStream, t.control, t.cursor))) =
    [(bytes [0x00], ControlState.writingChips, (0 : Word)), (bytes [0x00], .writingChips, 1),
      (bytes [0x01], .waitingForCommand, 0), (bytes [0x00], .writingChips, 0x1FFF),
      (bytes [0x00], .writingChips, 0x2000), (bytes [0x00], .writingChips, 0x3FFFFF)].map some := by decide

/-- Section 2.5, the first `More` at these cursors. -/
theorem test_write_more :
    [(0 : Word), 1, 0x1FFF, 0x2000, 0x3FFFFF].map (fun x =>
      after { idle [0x00] with control := .writingChips, cursor := x } (fun t => (t.io.txStream, t.control, t.body))) =
    [(bytes [0x00], ControlState.writingChips, some []), (bytes [0x00], .writingChips, some []),
      (bytes [0x00], .writingChips, some []), (bytes [0x01], .waitingForCommand, none),
      (bytes [0x01], .waitingForCommand, none)].map some := by decide

/-- Section 2.5, the erase-portion requests. -/
theorem test_erase_requests :
    [(Family.familyA, (0 : Word), (0x40000 : Word)), (.familyA, 0, 0x200000), (.familyA, 0x1C0000, 0x40000),
      (.familyA, 0x1C0000, 0x80000), (.familyA, 0x20000, 0x40000), (.familyA, 0, 0x20000), (.familyA, 0, 0x1000),
      (.familyA, 0, 0), (.familyA, 0x200000, 0), (.familyA, 0x200000, 0x40000), (.familyB, 0x7C0000, 0x40000),
      (.familyB, 0x800000, 0x40000), (.familyB, 0xFFFC0000, 0x40000), (.familyB, 0, 0)].map (fun x =>
        ({ State.reset with family := x.1, pos := x.2.1, len := x.2.2 } : State).eraseRequestOk) =
    [true, true, true, false, false, false, false, true, true, false, true, false, false, true] := by decide

/-- Section 2.5 and P4, a refused erase portion; FamilyA, position 0x200000, length 0: no bus cycle. -/
theorem test_erase_portion_replies :
    replies { idle [0x00] with control := .erasePortionReadingPosLength, cnt := 7, pos := 0x20000, len := 0x40000 } =
      some (bytes [0x01], .waitingForCommand) ∧
    replies { idle [0x00] with control := .erasePortionReadingPosLength, cnt := 7, pos := 0x200000 } =
      some ([.byte 0x00, .flush, .byte 0x02], .waitingForCommand) := by decide

/-- Part 1, S3 through the protocol: the eleven cycles of the FamilyB boot sector. -/
theorem test_erase_portion_boot_sector :
    after { idle [0x00] with control := .erasePortionReadingPosLength, cnt := 7, len := 0x40000, family := .familyB,
                             io := { State.reset.io with chips := chipsB } } (fun t => t.io.trace) =
    some [.tx 0x00, .flush, .write 0xAAAAAAAA 0xAAAAAAAA, .write 0x55555555 0x55555555, .write 0xAAAAAAAA 0x80808080,
      .write 0xAAAAAAAA 0xAAAAAAAA, .write 0x55555555 0x55555555, .write 0x00000000 0x30303030,
      .write 0x00004000 0x30303030, .write 0x00006000 0x30303030, .write 0x00008000 0x30303030,
      .read 0 0xFFFFFFFF, .read 0 0xFFFFFFFF, .tx 0x02] := by decide

/-- Section 2.6, the acknowledgements in `ReadingChips`, cursor 0, endCursor 2 (and 1 for the last chunk). -/
theorem test_read_acknowledgements :
    replies { idle [0x02] with control := .readingChips, endCursor := 2 } = some ([], .readingChips) ∧
    replies { idle [0x01] with control := .readingChips, endCursor := 2 } = some (bytes [0x04], .waitingForCommand) ∧
    replies { idle [0x00] with control := .readingChips, cursor := 1, endCursor := 2 } =
      some (bytes [0x03], .waitingForCommand) := by decide

/-- Section 2.6, the control bytes in `WritingChips`, cursor 4. -/
theorem test_write_control :
    replies { idle [0x07] with control := .writingChips, cursor := 4 } = some ([], .writingChips) ∧
    replies { idle [0x01] with control := .writingChips, cursor := 4 } = some (bytes [0x00], .waitingForCommand) ∧
    replies { idle [0x02] with control := .writingChips, cursor := 4 } = some (bytes [0x02], .waitingForCommand) := by
  decide

/-- Section 2.6: a `02` sent as one of the body bytes is data. -/
theorem test_body_byte_is_data :
    after { idle [0x02, 0x00] with control := .writingChips, body := some [0x5A] } (fun t => (t.body, t.io.trace, t.rx)) =
      some (some [0x5A, 0x02], [], [0x00]) := by decide

/-- Section 2.6, verify, and section 2.1, the verify bytes. -/
theorem test_fail_mask :
    failMask 0b1111 [0, 0, 0, 0, 0, 0x00000100] [0, 0, 0, 0, 0, 0] = 0b0010 ∧
    failMask 0b1101 [0, 0, 0, 0, 0, 0x00000100] [0, 0, 0, 0, 0, 0] = 0 ∧
    failMask 0b1111 [0xFF000000, 0x000000FF] [0, 0] = 0b1001 ∧
    (ErrorExit.verifyFailed 0b0010).reply defaultReplies = [0x84] ∧
    (ErrorExit.verifyFailed 0b1001).reply defaultReplies = [0x89] ∧
    (ErrorExit.verifyFailed 0b0011).reply defaultReplies = [0x8C] := by decide

/-! ### The sequencer (95_test_vectors.md 2.3) -/

/-- The record a sequencer operation leaves, if it ended. -/
def traceOf {α : Type} (r : SeqResult α) : Option (List IoEvent) :=
  match r with
  | .done _ io => some io.trace
  | .hang _ => none
  | .timeout => none

theorem test_write_some_a :
    traceOf (seqWriteSome Config.standard .familyA 0b0110 State.reset.io 0x100 [0x12345678]) =
      some [.write 0x55555555 0x00AAAA00, .write 0xAAAAAAAA 0x00555500, .write 0x55555555 0x00A0A000,
        .write 0x100 0x00345600, .read 0 0xFFFFFFFF, .read 0 0xFFFFFFFF] := by decide

theorem test_write_some_b :
    traceOf (seqWriteSome Config.standard .familyB 0b0001 { State.reset.io with chips := chipsB } 0 [0xDEADBEEF]) =
      some [.write 0xAAAAAAAA 0x000000AA, .write 0x55555555 0x00000055, .write 0xAAAAAAAA 0x00000020,
        .write 0 0x000000A0, .write 0 0x000000EF, .read 0 0xFFFFFFEF, .read 0 0xFFFFFFEF, .write 0 0x00000090,
        .write 0 0x00000000] := by decide

theorem test_write_all_b_of_nothing :
    traceOf (seqWriteAll Config.standard .familyB { State.reset.io with chips := chipsB } 0 []) =
      some [.write 0xAAAAAAAA 0xAAAAAAAA, .write 0x55555555 0x55555555, .write 0xAAAAAAAA 0x20202020,
        .write 0 0x90909090, .write 0 0x00000000] := by decide

theorem test_erase_sector_a :
    traceOf (seqEraseSectors Config.standard .familyA 0b1111 State.reset.io 0x1000 0x1000) =
      some [.write 0x55555555 0xAAAAAAAA, .write 0xAAAAAAAA 0x55555555, .write 0x55555555 0x80808080,
        .write 0x55555555 0xAAAAAAAA, .write 0xAAAAAAAA 0x55555555, .write 0x00001000 0x30303030,
        .read 0 0xFFFFFFFF, .read 0 0xFFFFFFFF] := by decide

/-- One socket that answers its next reads as busy. -/
def busyChip (b : Busy) : Chip := { chipIn .familyA .readingStatus with busy := b }

/-- The sockets with these busy times, lane 3 first. -/
def busyIo (b3 b2 b1 b0 : Busy) : Io :=
  { chips := { l3 := busyChip b3, l2 := busyChip b2, l1 := busyChip b1, l0 := busyChip b0 }, trace := [] }

/-- The words the poll reads: busy times 0, 2, 0, 1 and 3, 3, 3, 3. -/
theorem test_poll :
    traceOf (waitForCompletion Config.standard (busyIo (.reads 0) (.reads 2) (.reads 0) (.reads 1))) =
      some [.read 0 0xFF40FF40, .read 0 0xFF00FFFF, .read 0 0xFFFFFFFF, .read 0 0xFFFFFFFF] ∧
    traceOf (waitForCompletion Config.standard (busyIo (.reads 3) (.reads 3) (.reads 3) (.reads 3))) =
      some [.read 0 0x40404040, .read 0 0x00000000, .read 0 0x40404040, .read 0 0xFFFFFFFF, .read 0 0xFFFFFFFF] := by
  decide

/-- Infinite busy time: Hang; the step that meets it has no successor. -/
theorem test_poll_hangs :
    waitForCompletion Config.standard (busyIo (.reads 0) (.reads 0) (.reads 0) .forever) =
      .hang (busyIo (.reads 0) (.reads 0) (.reads 0) .forever) ∧
    step { idle [0x00] with hung := true } = .fault .hang := ⟨by decide, rfl⟩

/-! ### The chip model (95_test_vectors.md 2.7, 2.8) -/

theorem test_unlock_rows :
    lane2State .familyA .reading 0x00D555 0xAA = some .unlocking ∧
    lane2State .familyA .reading 0x005554 0xAA = some .reading ∧
    lane2State .familyA .reading 0x0AAAAA 0xAA = some .reading ∧
    lane2State .familyB .reading 0x0AAAAA 0xAA = some .unlocking ∧
    lane2State .familyB .reading 0x155555 0xAA = some .reading ∧
    lane2State .familyA .unlocking 0x0AAAAA 0x55 = some .waitingForCommand ∧
    lane2State .familyA .unlocking 0x155555 0x55 = some .reading ∧
    lane2State .familyA .unlocking 0x0AAAAA 0x54 = some .reading ∧
    lane2State .familyB .unlocking 0x155555 0x55 = some .waitingForCommand ∧
    lane2State .familyA .eraseUnlocking1 0x155555 0xAA = some .eraseUnlocking2 ∧
    lane2State .familyA .eraseUnlocking1 0x155555 0x00 = some .reading ∧
    lane2State .familyA .eraseUnlocking2 0x0AAAAA 0x55 = some .eraseWaitingForCommand := by decide

/-- 30_encoding.md R120: each chip takes the byte of its own lane of KEY1, here 0x11 on lane 0 and 0x22 on lane 1. -/
theorem test_key_of_the_lane :
    let cfg : Config := { Config.standard with key1 := 0x44332211 }
    ((chipIn .familyA .reading).commit cfg 0 0x155555 0x11).algState = .unlocking ∧
    ((chipIn .familyA .reading).commit cfg 1 0x155555 0x11).algState = .reading ∧
    ((chipIn .familyA .unlocking).commit cfg 1 0x0AAAAA 0xDD).algState = .waitingForCommand := by decide

theorem test_command_rows :
    lane2State .familyA .waitingForCommand 0x155555 0x90 = some .softwareId ∧
    lane2State .familyA .waitingForCommand 0x155555 0xA0 = some .programmingByte ∧
    lane2State .familyA .waitingForCommand 0x155555 0x80 = some .eraseUnlocking1 ∧
    lane2State .familyA .waitingForCommand 0x155555 0x20 = some .reading ∧
    lane2State .familyA .waitingForCommand 0x000000 0xA0 = some .reading ∧
    lane2State .familyA .waitingForCommand 0x155555 0x10 = some .reading ∧
    lane2State .familyB .waitingForCommand 0x0AAAAA 0x20 = some .unlockBypass := by decide

theorem test_software_id_rows :
    (lane2After { chipIn .familyA .softwareId with softwareIdActive := true } 0x123 0xF0).map
      (fun c => (c.algState, c.softwareIdActive)) = some (.reading, false) ∧
    (lane2After { chipIn .familyA .softwareId with softwareIdActive := true } 0x123 0x77).map
      (fun c => (c.algState, c.softwareIdActive)) = some (.softwareId, true) := by decide

/-- The data cycle; 0x80005 mod 0x80000 is 5. -/
theorem test_program_data :
    (lane2After (chipIn .familyA .programmingByte) 0x080005 0x3C).map (fun c => (c.algState, c.content)) =
      some (.readingStatus, [(5, 0x3C)]) ∧
    (lane2After { chipIn .familyA .programmingByte with content := [(5, 0xF0)] } 0x000005 0x0F).map
      (fun c => c.content) = some [(5, 0x00)] := by decide

theorem test_erase_rows :
    (lane2After { chipIn .familyA .eraseWaitingForCommand with content := [(0, 1), (0x7FFFF, 2)] } 0x155555 0x10).map
      (fun c => (c.algState, c.content)) = some (.readingStatus, []) ∧
    lane2State .familyA .eraseWaitingForCommand 0x000000 0x10 = some .reading ∧
    (lane2After { chipIn .familyA .eraseWaitingForCommand with content := [(0xFFF, 1), (0x1000, 2), (0x1FFF, 3), (0x2000, 4)] }
      0x001234 0x30).map (fun c => (c.algState, c.batchOpen, c.content)) =
        some (.readingStatus, false, [(0xFFF, 1), (0x2000, 4)]) ∧
    (lane2After { chipIn .familyB .eraseWaitingForCommand with content := [(0x3FFF, 1), (0x4000, 2), (0x5FFF, 3), (0x6000, 4)] }
      0x004000 0x30).map (fun c => (c.algState, c.batchOpen, c.content)) =
        some (.readingStatus, true, [(0x3FFF, 1), (0x6000, 4)]) := by decide

theorem test_status_rows :
    (lane2After { chipIn .familyB .readingStatus with batchOpen := true, content := [(0x30000, 1), (0x40000, 2)] }
      0x030000 0x30).map (fun c => (c.algState, c.batchOpen, c.content)) = some (.readingStatus, true, [(0x40000, 2)]) ∧
    (lane2After { chipIn .familyB .readingStatus with batchOpen := true, busy := .reads 4 } 0x030000 0x31).map
      (fun c => (c.algState, c.batchOpen, c.busy)) = some (.reading, false, .reads 0) ∧
    lane2State .familyA .readingStatus 0x002000 0x30 = some .reading := by decide

theorem test_bypass_rows :
    let b (st : AlgState) : Chip := { chipIn .familyB st with bypassActive := true }
    (lane2After (b .unlockBypass) 0 0xA0).map (fun c => c.algState) = some .programmingByte ∧
    (lane2After (b .unlockBypass) 0x100 0x5A).map (fun c => c.algState) = some .unlockBypass ∧
    (lane2After (b .unlockBypass) 0 0x90).map (fun c => c.algState) = some .bypassReset ∧
    (lane2After (b .bypassReset) 0 0x00).map (fun c => (c.algState, c.bypassActive)) = some (.reading, false) ∧
    (lane2After (b .bypassReset) 0 0xF0).map (fun c => c.algState) = some .unlockBypass := by decide

theorem test_family_b_sectors :
    [0x0000, 0x3FFF, 0x4000, 0x7FFF, 0x8000, 0xFFFF, 0x10000, 0x1FFFFF].map (sectorOf .familyB) =
      [(0, 0x4000), (0, 0x4000), (0x4000, 0x6000), (0x6000, 0x8000), (0x8000, 0x10000), (0x8000, 0x10000),
        (0x10000, 0x20000), (0x1F0000, 0x200000)] := by decide

/-- Section 2.8: the write cycle on lane 2, and the read cycle of a chip with `busy` = 1 and content 0x7E at 0. -/
theorem test_pin_cycles :
    (match pinEvents Config.standard State.reset.io.chips (writeCycleEvents 0x55555555 0xAAAAAAAA) with
      | .ok cs => some ((cs.get 2).algState, (cs.get 2).addressLatch, (cs.get 2).dataLatch)
      | .error _ => none) = some (.unlocking, 0x155555, 0xAA) ∧
    (match pinEvents Config.standard (Lanes.same { busyChip (.reads 1) with content := [(0, 0x7E)] })
        (readCycleEvents 0) with
      | .ok cs => some ((cs.get 2).dout Config.standard, (cs.get 2).busy)
      | .error _ => none) = some (.byte 0x40, .reads 0) := by decide

/-! ### Witnesses: states and operands that meet the hypotheses of the statements -/

/-- The parameters under which the unlock addresses and keys reach the chips: the default ones. -/
theorem test_standard_keys_reach : Config.standard.KeysReach :=
  ⟨fun f => by cases f <;> decide, by decide⟩

/-- The default parameters meet the constraints of 00_scope.md R9; a reply table in which two answers to a command stand
on one code does not, nor one whose verify bytes meet another write reply. -/
theorem test_standard_wf :
    Config.standard.wf ∧
    ¬ ({ Config.standard with reply := { defaultReplies with invalid := 0x00 } } : Config).wf ∧
    ¬ ({ Config.standard with reply := { defaultReplies with writeVerifyError := 0x00 } } : Config).wf :=
  ⟨by decide, by decide, by decide⟩

theorem test_reset_settles : State.reset.Settles := by decide

/-- O3. -/
theorem test_witness_invariant_step : ∃ t, (idle [0x00]).Inv ∧ step (idle [0x00]) = .next t :=
  ⟨_, ⟨by decide, fun _ => ⟨by decide, by decide, fun _ h => (by cases h), by decide⟩, by decide⟩, rfl⟩

/-- O4, O9. -/
theorem test_witness_ready_step : ∃ t, (idle [0x0C, 0x05]).Ready 0x0C [0x05] ∧ step (idle [0x0C, 0x05]) = .next t :=
  ⟨_, by decide, rfl⟩

/-- O6. -/
theorem test_witness_well_formed :
    Config.standard.codesDistinct ∧ Instr.eraseChips.wellFormed Config.standard (.host .waitingForCommand false) = true ∧
    (Instr.jcBypassEnter 2 0x0AAAAA).wellFormed Config.standard (cyc .familyB .waitingForCommand 0x0AAAAA) = true := by
  decide

/-- O7. -/
theorem test_witness_not_handed_off :
    (∀ inBody, (cyc .familyA .reading 0) ≠ .host .handedOff inBody) ∧ Config.standard.codesDistinct := by
  exact ⟨fun _ => by simp [cyc], by decide⟩

/-- O8: a command, and the byte of a write start field that completes it. -/
theorem test_witness_transition :
    (∃ t, (idle [0x10]).Ready 0x10 [] ∧ exec .writeChipsAt (idle []) = .next t ∧ t.hung = false) ∧
    ∃ t, ({ idle [0x00] with control := .writingChipsReadingStartPos, cnt := 3 } : State).Ready 0x00 [] ∧
      exec (.fieldWriteStart 0x00) { idle [] with control := .writingChipsReadingStartPos, cnt := 3 } = .next t ∧
      t.hung = false :=
  ⟨⟨_, by decide, rfl, rfl⟩, ⟨_, by decide, rfl, rfl⟩⟩

/-- O10. -/
theorem test_witness_blocked : ({ idle [] with control := .writingChips, body := some [0x5A] } : State).Blocked := by
  decide

/-- O11, both clauses. -/
theorem test_witness_stopped :
    (({ idle [0x00] with hung := true } : State).bench = [] ∧ ({ idle [0x00] with hung := true } : State).hung = true) ∧
    ({ idle [0x00] with control := .handedOff } : State).bench = [] ∧
    ({ idle [0x00] with control := .handedOff } : State).hung = false ∧
    ({ idle [0x00] with control := .handedOff } : State).control = .handedOff := by decide

/-- O12: the flash keeps what it holds, and the session goes. -/
theorem test_witness_power_cycle :
    after { idle [0x05] with bench := [.powerCycle], family := .familyB, io := { State.reset.io with chips := chipsB } }
      (fun t => (t.family, t.rx, t.io.chips)) = some (.familyA, [], chipsB) := by decide

/-- O13. -/
theorem test_witness_config_registers :
    (∃ t, exec .selectFamilyB (idle []) = .next t) ∧ (∃ t, exec (.maskByte 0x0F) (idle []) = .next t) ∧
    ∃ t, exec (.maskByte 0x10) (idle []) = .next t := ⟨⟨_, rfl⟩, ⟨_, rfl⟩, ⟨_, rfl⟩⟩

/-- O19, O53 to O59: chips that listen. -/
theorem test_witness_listening :
    State.reset.cfg = Config.standard ∧
    (∀ l : Lane, (State.reset.io.chips.get l).Listening Config.standard .familyA) ∧
    ∀ l : Lane, (chipsB.get l).Listening Config.standard .familyB := ⟨rfl, by decide, by decide⟩

/-- O25, the clauses at their boundaries (95_test_vectors.md 2.5): collected; refused for a zero length, a length or a start
that is no whole chunk, a region over the end; accepted up to the end. -/
theorem test_read_length_clauses :
    [((0 : Word), (0x400 : Word), (2 : BitVec 4)), (0, 0, 3), (0, 0x401, 3), (0x200, 0x400, 3), (0x7FFC00, 0x800, 3),
      (0x7FFC00, 0x400, 3)].map (fun x =>
        after { idle [0x00] with control := .readingChipsReadLength, pos := x.1, len := x.2.1, cnt := x.2.2 }
          (fun t => (t.control, t.cnt, t.cursor, t.endCursor))) =
    [(ControlState.readingChipsReadLength, (3 : BitVec 4), (0 : Word), (0 : Word)), (.waitingForCommand, 4, 0, 0),
      (.waitingForCommand, 4, 0, 0), (.waitingForCommand, 4, 0, 0), (.waitingForCommand, 4, 0, 0),
      (.readingChips, 4, 0x1FFF, 0x2000)].map some := by decide

/-- O29, both clauses where they meet. -/
theorem test_read_more_or_finished :
    [(2 : Word), 3].map (fun e =>
      after { idle [0x00] with control := .readingChips, cursor := 1, endCursor := e } (fun t => (t.control, t.cursor))) =
    [(ControlState.waitingForCommand, (2 : Word)), (.readingChips, 2)].map some := by decide

/-- O27: a payload that is not complete, and a complete bad one. -/
theorem test_witness_erase_field :
    (({ idle [] with cnt := 3 } : State).takeEraseByte 0).eraseRequestOk = true ∧
    ({ idle [] with cnt := 3 } : State).cnt ≠ 7 ∧
    (({ idle [] with cnt := 7, len := 0x20000 } : State).takeEraseByte 0).eraseRequestOk = false := by decide

/-- A complete erase-portion payload but for its last byte. -/
def eraseRequest (f : Family) (pos len : Word) : State :=
  { State.reset with control := .erasePortionReadingPosLength, cnt := 7, pos := pos, len := len, family := f }

/-- O28, in each family. -/
theorem test_witness_erase_portion :
    ((eraseRequest .familyA 0 0x40000).cfg.wf ∧ (eraseRequest .familyA 0 0x40000).cnt = 7 ∧
      ((eraseRequest .familyA 0 0x40000).takeEraseByte 0).eraseRequestOk = true ∧
      (eraseRequest .familyA 0 0x40000).Settles) ∧
    (eraseRequest .familyB 0x7C0000 0x40000).cfg.wf ∧ (eraseRequest .familyB 0x7C0000 0x40000).cnt = 7 ∧
    ((eraseRequest .familyB 0x7C0000 0x40000).takeEraseByte 0).eraseRequestOk = true ∧
    (eraseRequest .familyB 0x7C0000 0x40000).Settles :=
  ⟨⟨test_standard_wf.1, by decide⟩, test_standard_wf.1, by decide⟩

/-- Four sockets of which the chip on lane 0 never ends its next operation. -/
def stuckChips : Lanes Chip :=
  State.reset.io.chips.set { Chip.fresh .familyA 0 0 [] with draws := [.forever] } 0

/-- A state over them, with only lane 0 selected. -/
def stuck (s : State) : State := { s with io := { s.io with chips := stuckChips }, chipMask := 0b0001 }

/-- O28, the erase that never ends. -/
theorem test_witness_erase_portion_hangs :
    ∃ io, (stuck (eraseRequest .familyA 0 0x40000)).cfg.wf ∧ (stuck (eraseRequest .familyA 0 0x40000)).cnt = 7 ∧
      ((stuck (eraseRequest .familyA 0 0x40000)).takeEraseByte 0).eraseRequestOk = true ∧
      seqEraseSectors Config.standard .familyA 0b0001 (((stuck (eraseRequest .familyA 0 0x40000)).io.tx [0x00]).flush)
        (BitVec.ofNat 32 (0 / 4)) (BitVec.ofNat 32 (0x40000 / 4)) = .hang io :=
  ⟨_, test_standard_wf.1, rfl, by decide, rfl⟩

/-- O33: the first body byte, and the last that is only stored. -/
theorem test_witness_body_byte :
    (∃ bytes, ({ idle [] with body := some [] } : State).body = some bytes ∧ bytes.length < 1023) ∧
    ∃ bytes, ({ idle [] with body := some (List.replicate 1022 0x5A) } : State).body = some bytes ∧
      bytes.length = 1022 :=
  ⟨⟨_, rfl, by decide⟩, ⟨_, rfl, List.length_replicate⟩⟩

/-- O34: with all chips and with some, verify off and on. -/
theorem test_witness_last_body_byte :
    ∃ bytes,
      ({ idle [] with body := some (List.replicate 1023 0x5A) } : State).body = some bytes ∧ bytes.length = 1023 ∧
      ({ idle [] with body := some bytes } : State).Settles ∧
      ({ idle [] with body := some bytes, chipMask := 0b0011, verify := true } : State).Settles :=
  ⟨_, rfl, List.length_replicate, by decide, by decide⟩

/-- O34, the program cycle that never ends. -/
theorem test_witness_last_body_byte_hangs :
    ∃ bytes io, (stuck { idle [] with body := some (List.replicate 1023 0x5A) }).body = some bytes ∧
      bytes.length = 1023 ∧
      seqWriteSome Config.standard .familyA 0b0001 (stuck (idle [])).io (0 * 256) (packWords (bytes ++ [0x5A])) = .hang io :=
  ⟨_, _, rfl, List.length_replicate, rfl⟩

/-- O35. -/
theorem test_witness_body_phase :
    ∃ (s : State) (body rest : List Byte), s.hung = false ∧ s.bench = [] ∧ s.control = .writingChips ∧ s.body = none ∧
      s.chunkFits = true ∧ body.length = 1024 ∧ s.rx = s.cfg.ack.writeMore :: (body ++ rest) :=
  ⟨{ idle (0x00 :: (List.replicate 1024 0x5A ++ [0x01])) with control := .writingChips }, List.replicate 1024 0x5A, [0x01],
    rfl, rfl, rfl, rfl, by decide, List.length_replicate, rfl⟩

/-- O36: a mismatch on a selected lane, and on one that is not. -/
theorem test_witness_fail_mask :
    ([0x00000100] : List Word).length = ([0] : List Word).length ∧ (failMask 0b1111 [0x00000100] [0]).getLsbD 1 = true ∧
    (failMask 0b1101 [0x00000100] [0]).getLsbD 1 = false := by decide

/-- O37, the erase that never ends: six cycles, no reply, and no step after it. -/
theorem test_witness_erase_chips_hangs :
    (stuck (idle [])).cfg.maxPolls = none ∧
    PollNeverEnds (stuck (idle [])).cfg
      ((seqErasePrefix Config.standard .familyA 0b0001 (stuck (idle [])).io).memWrite Config.standard 0x55555555
        (cmdWord 0x10 0b0001)) :=
  ⟨rfl, pollNeverEnds_of_alternating rfl rfl (by decide) (by decide) (by decide)⟩

/-- The step that meets the hang (60_exceptions.md R326). -/
theorem test_erase_chips_hangs :
    after (stuck (idle [0x05])) (fun t => (t.hung, t.rx, t.io.txStream, t.io.cycles.length)) = some (true, [], [], 6) := by
  decide

/-- O38: whole words, and fresh accumulators. -/
theorem test_witness_link_bytes :
    ([0x00, 0x01, 0x02, 0x03] : List Byte).length % 4 = 0 ∧ State.reset.pos = 0 ∧ State.reset.len = 0 ∧
    State.reset.cnt = 0 := by decide

/-- O39 to O43: a lane with a chip and a lane without. -/
theorem test_lane_without_chip :
    (State.reset.io.chips.get 2).fitted = true ∧ (State.reset.io.chips.get 2).legal Config.standard ∧
    lane2After { chipIn .familyA .programmingByte with fitted := false } 0x5 0x3C =
      some { chipIn .familyA .programmingByte with fitted := false } := by decide

/-- O45. -/
theorem test_witness_lines_idle : ∀ l : Lane, (State.reset.io.chips.get l).LinesIdle := by decide

/-- O46, both states. -/
theorem test_witness_zero_writes :
    let id : Chip := { chipIn .familyA .softwareId with softwareIdActive := true }
    Config.standard.k1 2 ≠ 0x00 ∧
    (chipIn .familyA .reading).algState = .reading ∧ (chipIn .familyA .reading).algState = (chipIn .familyA .reading).idle ∧
    id.algState = .softwareId ∧ id.algState = id.idle := by decide

/-- O47: both keys, the second at the wrong address. -/
theorem test_witness_no_key_pair :
    (chipIn .familyA .reading).algState = .reading ∧ (chipIn .familyA .reading).bypassActive = false ∧
    ∀ (pre post : List (Word × Byte)) (x y : Word × Byte),
      [((0x155555 : Word), (0xAA : Byte)), (0x155555, 0x55)] = pre ++ x :: y :: post →
      ¬ (Config.standard.match1 .familyA x.1 = true ∧ x.2 = Config.standard.k1 2 ∧
          Config.standard.match2 .familyA y.1 = true ∧ y.2 = Config.standard.k2 2) := by
  refine ⟨rfl, rfl, fun pre post x y h => ?_⟩
  rcases pre with _ | ⟨p, _ | ⟨q, pre⟩⟩
  · simp only [List.nil_append, List.cons.injEq] at h
    rw [← h.1, ← h.2.1]
    decide
  · simp at h
  · simp at h

/-- O48: a data cycle that changes content. -/
theorem test_witness_content_changes :
    (chipIn .familyA .programmingByte).legal Config.standard ∧ 0 < Config.standard.cap .familyA ∧
    ((chipIn .familyA .programmingByte).commit Config.standard 2 5 0x3C).content ≠
      (chipIn .familyA .programmingByte).content := by decide

/-- O51, O52; every socket drives its lane, and busy times up to 2 end within 4 reads. -/
theorem test_witness_poll :
    Config.standard.maxPolls = none ∧ (busyIo (.reads 0) (.reads 2) (.reads 0) (.reads 1)).CanSettle ∧
    (∀ l : Lane, ((busyIo (.reads 0) (.reads 2) (.reads 0) (.reads 1)).chips.get l).Drives) ∧
    longestBusy (busyIo (.reads 0) (.reads 2) (.reads 0) (.reads 1)).chips = 2 := by decide

/-- The interfaces over four erased FamilyB chips. -/
def ioB : Io := { State.reset.io with chips := chipsB }

/-- O53, a selected lane and another. -/
theorem test_witness_erase_all :
    ∃ io', Config.standard.KeysReach ∧ seqEraseAll Config.standard .familyA 0b0001 State.reset.io = .done () io' ∧
      (State.reset.io.chips.get 0).Listening Config.standard .familyA ∧ (0b0001 : Mask).getLsbD 0 = true ∧
      (State.reset.io.chips.get 2).Listening Config.standard .familyA ∧ (0b0001 : Mask).getLsbD 2 = false :=
  ⟨_, test_standard_keys_reach, rfl, by decide, rfl, by decide, rfl⟩

/-- O54. -/
theorem test_witness_spared :
    Config.standard.k1 2 ≠ 0x00 ∧ (0b0011 : Mask).getLsbD 2 = false ∧ (State.reset.io.chips.get 2).InReadMode := by
  decide

/-- O55, `writeSome` in FamilyA and `writeAll` in FamilyB. -/
theorem test_witness_write :
    (∃ io', Config.standard.KeysReach ∧ (State.reset.io.chips.get 0).Listening Config.standard .familyA ∧
      seqWriteSome Config.standard .familyA 0b0001 State.reset.io 0 [0xDEADBEEF] = .done () io' ∧
      (0b0001 : Mask).getLsbD (0 : Lane).val = true) ∧
    ∃ io', Config.standard.KeysReach ∧ (ioB.chips.get 3).Listening Config.standard .familyB ∧
      seqWriteAll Config.standard .familyB ioB 0x1FFFFF [0xDEADBEEF, 0x12345678] = .done () io' :=
  ⟨⟨_, test_standard_keys_reach, by decide, rfl, rfl⟩, ⟨_, test_standard_keys_reach, by decide, rfl⟩⟩

/-- O56, the last FamilyA sector, the FamilyB boot sector, and the FamilyB range of length 0. -/
theorem test_witness_erase_sectors :
    Config.standard.KeysReach ∧ Config.standard.addrLines ≤ 32 ∧
    (∃ io', Config.standard.cap .familyA % sectorSize .familyA = 0 ∧
      Config.standard.cap .familyA ≤ 2 ^ Config.standard.addrLines ∧
      (0x7F000 : Word).toNat + (0x1000 : Word).toNat ≤ Config.standard.cap .familyA ∧
      (State.reset.io.chips.get 0).Listening Config.standard .familyA ∧ (0b0001 : Mask).getLsbD (0 : Lane).val = true ∧
      seqEraseSectors Config.standard .familyA 0b0001 State.reset.io 0x7F000 0x1000 = .done true io') ∧
    (∃ io', Config.standard.cap .familyB % sectorSize .familyB = 0 ∧
      Config.standard.cap .familyB ≤ 2 ^ Config.standard.addrLines ∧
      (0 : Word).toNat + (0x10000 : Word).toNat ≤ Config.standard.cap .familyB ∧
      (ioB.chips.get 0).Listening Config.standard .familyB ∧ (0b0001 : Mask).getLsbD (0 : Lane).val = true ∧
      seqEraseSectors Config.standard .familyB 0b0001 ioB 0 0x10000 = .done true io') ∧
    ∃ io', (0x200000 : Word).toNat + (0 : Word).toNat ≤ Config.standard.cap .familyB ∧
      seqEraseSectors Config.standard .familyB 0b0001 ioB 0x200000 0 = .done true io' :=
  ⟨test_standard_keys_reach, by decide, ⟨_, by decide, by decide, by decide, by decide, rfl, rfl⟩,
    ⟨_, by decide, by decide, by decide, by decide, rfl, rfl⟩, ⟨_, by decide, rfl⟩⟩

/-- O57: the last word of the array. -/
theorem test_witness_round_trip :
    ∃ io', Config.standard.KeysReach ∧ Config.standard.cap .familyA ≤ 2 ^ Config.standard.addrLines ∧
      Config.standard.addrLines ≤ 32 ∧
      (0x7FFFF : Word).toNat + ([0x12345678] : List Word).length ≤ Config.standard.cap .familyA ∧
      (∀ l : Lane, (State.reset.io.chips.get l).Listening Config.standard .familyA ∧
        ∀ x, (0x7FFFF : Word).toNat ≤ x → x < (0x7FFFF : Word).toNat + ([0x12345678] : List Word).length →
          (State.reset.io.chips.get l).content.read x = 0xFF) ∧
      seqWriteAll Config.standard .familyA State.reset.io 0x7FFFF [0x12345678] = .done () io' :=
  ⟨_, test_standard_keys_reach, by decide, by decide, by decide,
    fun l => ⟨by fin_cases l <;> decide, fun x _ _ => by fin_cases l <;> rfl⟩, rfl⟩

/-- O59, a chip of each family. -/
theorem test_witness_wrong_family :
    ((State.reset.io.chips.get 0).family ≠ .familyB ∧ (State.reset.io.chips.get 0).InReadMode) ∧
    (ioB.chips.get 0).family ≠ .familyA ∧ (ioB.chips.get 0).InReadMode := by decide

/-- O60, a misaligned address, a misaligned length, and an aligned request (95_test_vectors.md 2.3). -/
theorem test_witness_alignment :
    (0x800 : Word).toNat % sectorSize .familyA ≠ 0 ∧ (0x8000 : Word).toNat % sectorSize .familyB ≠ 0 ∧
    (0x3000 : Word).toNat % sectorSize .familyA = 0 ∧ (0 : Word).toNat % sectorSize .familyA = 0 := by decide

end Sys2Proof.Tests
end

section
/-! What the protocol dispatcher's single-byte rows do: `tx`, `finish` and `raise` as record updates, one equation per
instruction in the terms of those operations, and the statements about these rows assembled from them. -/

namespace Sys2Proof.Machine

/-! ### The shared operations, as record updates -/

theorem State.tx_eq (s : State) (bs : List Byte) : s.tx bs = { s with io := s.io.tx bs } := rfl

theorem State.finish_eq (s : State) (bs : List Byte) :
    s.finish bs = { s with io := s.io.tx bs, control := .waitingForCommand } := rfl

theorem State.raise_eq_finish (s : State) (e : ErrorExit) : s.raise e = s.finish (e.reply s.cfg.reply) := rfl

theorem State.raise_invalidCommand (s : State) :
    s.raise .invalidCommand = { s with io := s.io.tx [s.cfg.reply.invalid], control := .waitingForCommand } := by
  rw [State.raise_eq_finish, State.finish_eq, ErrorExit.reply]

theorem State.raise_maskRefused (s : State) :
    s.raise .maskRefused = { s with io := s.io.tx [s.cfg.reply.error], control := .waitingForCommand } := by
  rw [State.raise_eq_finish, State.finish_eq, ErrorExit.reply]

theorem State.setVerify_eq (s : State) (v : Bool) : s.setVerify v = { s with verify := v } := rfl

/-! ### Commands that reply and stay idle (41_protocol_dispatcher.md R200, R204, R206, R216, R217) -/

theorem exec_enterIdle (s : State) : exec .enterIdle s = .next (s.finish [s.cfg.reply.ok]) := rfl

theorem exec_enterProgrammer (s : State) : exec .enterProgrammer s = .next (s.finish [s.cfg.reply.ok]) := rfl

theorem exec_getBootloaderState (s : State) :
    exec .getBootloaderState s = .next (s.finish [s.cfg.reply.ok, s.cfg.reply.bootloaderInProgrammer]) := rfl

theorem exec_readByte (s : State) : exec .readByte s = .next (s.raise .invalidCommand) := rfl

theorem exec_unassigned0A (s : State) : exec .unassigned0A s = .next (s.raise .invalidCommand) := rfl

theorem exec_unassignedDefault (b : Byte) (s : State) :
    exec (.unassignedDefault b) s = .next (s.raise .invalidCommand) := rfl

/-- Settles O15: each of the three rows is a `finish` with its own reply. -/
theorem immediateCommandsReply : Obligations.ImmediateCommandsReply := by
  intro s
  refine ⟨?enterIdle, ?enterProgrammer, ?getBootloaderState⟩
  case enterIdle => rw [exec_enterIdle, State.finish_eq]
  case enterProgrammer => rw [exec_enterProgrammer, State.finish_eq]
  case getBootloaderState => rw [exec_getBootloaderState, State.finish_eq]

/-- Settles O16: the three rows raise the one error exit `invalidCommand` (60_exceptions.md R321). -/
theorem invalidCommandsReplyInvalid : Obligations.InvalidCommandsReplyInvalid := by
  intro s b
  refine ⟨?readByte, ?unassigned0A, ?unassignedDefault⟩
  case readByte => rw [exec_readByte, State.raise_invalidCommand]
  case unassigned0A => rw [exec_unassigned0A, State.raise_invalidCommand]
  case unassignedDefault => rw [exec_unassignedDefault, State.raise_invalidCommand]

/-! ### Commands that open a transaction (41_protocol_dispatcher.md R202, R203, R208, R209, R213, R214) -/

theorem exec_readChips (s : State) :
    exec .readChips s =
      .next { s.tx [s.cfg.reply.ok] with pos := 0, len := 0, cnt := 0, control := .readingChipsReadLength } := rfl

theorem exec_readChipsAt (s : State) :
    exec .readChipsAt s =
      .next { s.tx [s.cfg.reply.ok] with pos := 0, len := 0, cnt := 0, control := .readingChipsReadStartPos } := rfl

theorem exec_writeChips (s : State) :
    exec .writeChips s = .next { s.tx [s.cfg.reply.ok] with cursor := 0, control := .writingChips } := rfl

theorem exec_writeChipsAt (s : State) :
    exec .writeChipsAt s =
      .next { s.tx [s.cfg.reply.ok] with pos := 0, cnt := 0, control := .writingChipsReadingStartPos } := rfl

theorem exec_erasePortion (s : State) :
    exec .erasePortion s =
      .next { s.tx [s.cfg.reply.ok] with pos := 0, len := 0, cnt := 0, control := .erasePortionReadingPosLength } := rfl

theorem exec_setChipMask (s : State) :
    exec .setChipMask s = .next { s.tx [s.cfg.reply.ok] with control := .readingChipsMask } := rfl

/-- Settles O20: each row replies OK, clears the fields its transaction collects, and enters that transaction's state. -/
theorem openingCommandsEnterTheirState : Obligations.OpeningCommandsEnterTheirState := by
  intro s
  refine ⟨?readChips, ?readChipsAt, ?writeChips, ?writeChipsAt, ?erasePortion, ?setChipMask⟩
  case readChips => rw [exec_readChips, State.tx_eq]
  case readChipsAt => rw [exec_readChipsAt, State.tx_eq]
  case writeChips => rw [exec_writeChips, State.tx_eq]
  case writeChipsAt => rw [exec_writeChipsAt, State.tx_eq]
  case erasePortion => rw [exec_erasePortion, State.tx_eq]
  case setChipMask => rw [exec_setChipMask, State.tx_eq]

/-! ### Commands and the byte that write a register (41_protocol_dispatcher.md R210 to R212, R218, R250) -/

theorem exec_selectFamilyA (s : State) :
    exec .selectFamilyA s = .next (({ s with family := .familyA } : State).finish [s.cfg.reply.ok]) := rfl

theorem exec_selectFamilyB (s : State) :
    exec .selectFamilyB s = .next (({ s with family := .familyB } : State).finish [s.cfg.reply.ok]) := rfl

theorem exec_enableVerify (s : State) :
    exec .enableVerify s = .next ((s.setVerify true).finish [s.cfg.reply.ok]) := rfl

theorem exec_disableVerify (s : State) :
    exec .disableVerify s = .next ((s.setVerify false).finish [s.cfg.reply.ok]) := rfl

theorem exec_maskByte_of_le {b : Byte} (hb : b.toNat ≤ 0b1111) (s : State) :
    exec (.maskByte b) s = .next (({ s with chipMask := b.setWidth 4 } : State).finish [s.cfg.reply.ok]) :=
  if_pos hb

theorem exec_maskByte_of_not_le {b : Byte} (hb : ¬ b.toNat ≤ 0b1111) (s : State) :
    exec (.maskByte b) s = .next (s.raise .maskRefused) :=
  if_neg hb

/-- Settles O22: each row writes its one register and is a `finish` with OK from there. -/
theorem selectionCommandsWriteTheirRegister : Obligations.SelectionCommandsWriteTheirRegister := by
  intro s
  refine ⟨?selectFamilyA, ?selectFamilyB, ?enableVerify, ?disableVerify⟩
  case selectFamilyA => rw [exec_selectFamilyA, State.finish_eq]
  case selectFamilyB => rw [exec_selectFamilyB, State.finish_eq]
  case enableVerify => rw [exec_enableVerify, State.finish_eq, State.setVerify_eq]
  case disableVerify => rw [exec_disableVerify, State.finish_eq, State.setVerify_eq]

/-- Settles O23, by the test of R250; the model's truncation to four bits is the spec's `b[3:0]`. -/
theorem maskByteSetsMaskOrIsRefused : Obligations.MaskByteSetsMaskOrIsRefused := by
  intro b s
  by_cases hb : b.toNat ≤ 0b1111
  case pos =>
    have hlow : b.setWidth 4 = b.extractLsb' 0 4 := BitVec.setWidth_eq_extractLsb' (by decide)
    rw [if_pos hb, exec_maskByte_of_le hb, hlow, State.finish_eq]
  case neg => rw [if_neg hb, exec_maskByte_of_not_le hb, State.raise_maskRefused]

/-! ### Acknowledgements and control bytes without bus activity (41_protocol_dispatcher.md R226, R227, R236 to R238) -/

theorem exec_computerReadCancel (s : State) :
    exec .computerReadCancel s = .next (s.finish [s.cfg.reply.readConfirmCancel]) := rfl

theorem exec_computerWriteFinish (s : State) :
    exec .computerWriteFinish s = .next (s.finish [s.cfg.reply.writeOK]) := rfl

theorem exec_computerWriteCancel (s : State) :
    exec .computerWriteCancel s = .next (s.finish [s.cfg.reply.writeConfirmCancel]) := rfl

theorem exec_readAckOther (b : Byte) (s : State) : exec (.readAckOther b) s = .next s := rfl

theorem exec_writeCtlOther (b : Byte) (s : State) : exec (.writeCtlOther b) s = .next s := rfl

/-- Settles O30: each of the three rows is a `finish` with its own reply. -/
theorem cancelAndFinishReplyAndGoIdle : Obligations.CancelAndFinishReplyAndGoIdle := by
  intro s
  refine ⟨?computerReadCancel, ?computerWriteFinish, ?computerWriteCancel⟩
  case computerReadCancel => rw [exec_computerReadCancel, State.finish_eq]
  case computerWriteFinish => rw [exec_computerWriteFinish, State.finish_eq]
  case computerWriteCancel => rw [exec_computerWriteCancel, State.finish_eq]

/-- Settles O31: the two rows are the identity on the state. -/
theorem otherAcknowledgementsAreIgnored : Obligations.OtherAcknowledgementsAreIgnored :=
  fun b s => ⟨exec_readAckOther b s, exec_writeCtlOther b s⟩

end Sys2Proof.Machine
end

section
/-! What a read cycle does to the command grammar of a chip: how each way of the status refresh (42_chip_model.md R266)
leaves the chip, from it the mode flags and `algorithmState` after a refresh and after a read cycle, and R287. -/

namespace Sys2Proof.Machine

/-- The refresh of a chip out of status, of one whose busy time is over, and of one still busy (42_chip_model.md R266). -/
theorem Chip.refreshStatus_cases (c : Chip) :
    (c.algState ≠ .readingStatus ∧ c.refreshStatus = c) ∨
    (c.algState = .readingStatus ∧ c.busy = .reads 0 ∧
      c.refreshStatus = { c with algState := c.idle, batchOpen := false }) ∨
    (c.algState = .readingStatus ∧ c.busy ≠ .reads 0 ∧
      ∃ b, c.refreshStatus = { c with busy := b, toggle := !c.toggle }) := by
  unfold Chip.refreshStatus
  split
  case h_1 hstatus =>
    split
    case h_1 hbusy => exact .inr (.inl ⟨hstatus, hbusy, rfl⟩)
    case h_2 n hbusy => exact .inr (.inr ⟨hstatus, by simp [hbusy], .reads n, rfl⟩)
    case h_3 hbusy => exact .inr (.inr ⟨hstatus, by simp [hbusy], c.busy, rfl⟩)
  case h_2 hother => exact .inl ⟨hother, rfl⟩

@[simp] theorem Chip.refreshStatus_softwareIdActive (c : Chip) :
    c.refreshStatus.softwareIdActive = c.softwareIdActive := by
  obtain ⟨-, h⟩ | ⟨-, -, h⟩ | ⟨-, -, _, h⟩ := c.refreshStatus_cases <;> rw [h]

@[simp] theorem Chip.refreshStatus_bypassActive (c : Chip) : c.refreshStatus.bypassActive = c.bypassActive := by
  obtain ⟨-, h⟩ | ⟨-, -, h⟩ | ⟨-, -, _, h⟩ := c.refreshStatus_cases <;> rw [h]

theorem Chip.refreshStatus_algState (c : Chip) :
    c.refreshStatus.algState =
      if c.algState = .readingStatus ∧ c.busy = .reads 0 then c.idle else c.algState := by
  obtain ⟨hother, h⟩ | ⟨hstatus, hbusy, h⟩ | ⟨-, hbusy, _, h⟩ := c.refreshStatus_cases
  · rw [h, if_neg fun hc => hother hc.1]
  · rw [h, if_pos ⟨hstatus, hbusy⟩]
  · rw [h, if_neg fun hc => hbusy hc.2]

@[simp] theorem Chip.refresh_softwareIdActive (c : Chip) : c.refresh.softwareIdActive = c.softwareIdActive := by
  unfold Chip.refresh
  split
  · exact c.refreshStatus_softwareIdActive
  · rfl

@[simp] theorem Chip.refresh_bypassActive (c : Chip) : c.refresh.bypassActive = c.bypassActive := by
  unfold Chip.refresh
  split
  · exact c.refreshStatus_bypassActive
  · rfl

theorem Chip.refresh_algState (c : Chip) :
    c.refresh.algState =
      if c.fitted ∧ c.algState = .readingStatus ∧ c.busy = .reads 0 then c.idle else c.algState := by
  unfold Chip.refresh
  by_cases hfitted : c.fitted = true
  · simp [hfitted, Chip.refreshStatus_algState]
  · simp [hfitted]

@[simp] theorem Chip.readCycle_softwareIdActive (c : Chip) (a : Word) :
    (c.readCycle a).softwareIdActive = c.softwareIdActive := by
  rw [Chip.readCycle, Chip.refresh_softwareIdActive]

@[simp] theorem Chip.readCycle_bypassActive (c : Chip) (a : Word) :
    (c.readCycle a).bypassActive = c.bypassActive := by
  rw [Chip.readCycle, Chip.refresh_bypassActive]

/-- A read cycle moves the grammar exactly where a chip in the socket reads status and its busy time is over; the address
has no part in it. -/
theorem Chip.readCycle_algState (c : Chip) (a : Word) :
    (c.readCycle a).algState =
      if c.fitted ∧ c.algState = .readingStatus ∧ c.busy = .reads 0 then c.idle else c.algState :=
  Chip.refresh_algState { c with addr := a }

/-- Settles O49: by `Chip.readCycle_algState`, the one move of a read cycle is from status to the base state. -/
theorem readCyclesNeverMoveTheGrammar : Obligations.ReadCyclesNeverMoveTheGrammar := by
  intro c a
  refine ⟨c.readCycle_content a, c.readCycle_softwareIdActive a, c.readCycle_bypassActive a, ?_⟩
  rw [Chip.readCycle_algState]
  by_cases hends : c.fitted ∧ c.algState = .readingStatus ∧ c.busy = .reads 0
  case pos =>
    rw [if_pos hends]
    obtain ⟨-, hstatus, -⟩ := hends
    exact .inr ⟨hstatus, rfl⟩
  case neg =>
    rw [if_neg hends]
    exact .inl rfl

end Sys2Proof.Machine
end

section
/-! The decoder and the encoder undo each other (30_encoding.md sections 1, 2 and 4): the command bytes as a table without
repeated keys, the host bytes and the lane bytes one context at a time, and the statements on decoding. -/

namespace Sys2Proof

/-! ### A table without repeated keys -/

/-- A lookup in a table without repeated keys finds every row by its key. -/
theorem lookup_of_mem {α β : Type} [BEq α] [LawfulBEq α] {rows : List (α × β)} (hkeys : (rows.map Prod.fst).Nodup)
    {k : α} {v : β} (hmem : (k, v) ∈ rows) : rows.lookup k = some v := by
  induction rows with
  | nil => cases hmem
  | cons row rows ih =>
    obtain ⟨k', v'⟩ := row
    rw [List.map_cons, List.nodup_cons] at hkeys
    obtain ⟨hfresh, hkeys⟩ := hkeys
    rcases List.mem_cons.mp hmem with heq | hmem
    · cases heq
      exact List.lookup_cons_self
    · have hne : k ≠ k' := fun h => hfresh (h ▸ (List.mem_map_of_mem hmem : k ∈ rows.map Prod.fst))
      rw [List.lookup_cons, beq_false_of_ne hne]
      exact ih hkeys hmem

/-- A lookup with a default, one row at a time. -/
theorem getD_lookup_cons {α β : Type} [DecidableEq α] (k b : α) (v d : β) (rows : List (α × β)) :
    (((k, v) :: rows).lookup b).getD d = if b = k then v else (rows.lookup b).getD d := by
  rw [List.lookup_cons]
  by_cases hb : b = k
  · simp [hb]
  · simp [hb, beq_false_of_ne hb]

/-- The assigned command bytes and their rows, in the order of the table of 30_encoding.md R101. -/
def commandRows (cfg : Config) : List (Byte × Instr) :=
  [(cfg.command.enterIdle, .enterIdle), (cfg.command.electricalTest, .electricalTest),
   (cfg.command.identify, .identify), (cfg.command.readByte, .readByte), (cfg.command.readChips, .readChips),
   (cfg.command.eraseChips, .eraseChips), (cfg.command.writeChips, .writeChips),
   (cfg.command.getBootloaderState, .getBootloaderState), (cfg.command.enterBootloader, .enterBootloader),
   (cfg.command.enterProgrammer, .enterProgrammer), (cfg.command.selectFamilyA, .selectFamilyA),
   (cfg.command.selectFamilyB, .selectFamilyB), (cfg.command.enableVerify, .enableVerify),
   (cfg.command.disableVerify, .disableVerify), (cfg.command.erasePortion, .erasePortion),
   (cfg.command.writeChipsAt, .writeChipsAt), (cfg.command.readChipsAt, .readChipsAt),
   (cfg.command.setChipMask, .setChipMask)]

theorem commandRows_keys (cfg : Config) : (commandRows cfg).map Prod.fst = cfg.command.toList := rfl

/-- The decoder of a command byte is a lookup in the table. -/
theorem decodeCommand_eq_lookup (cfg : Config) (b : Byte) :
    decodeCommand cfg b =
      ((commandRows cfg).lookup b).getD (if b = 0x0A then .unassigned0A else .unassignedDefault b) := by
  simp only [commandRows, getD_lookup_cons, List.lookup_nil, Option.getD_none, decodeCommand]

/-- Where the codes are distinct a command byte decodes to its row. -/
theorem decodeCommand_of_mem {cfg : Config} (hcodes : cfg.codesDistinct) {b : Byte} {i : Instr}
    (hrow : (b, i) ∈ commandRows cfg) : decodeCommand cfg b = i := by
  have hkeys : ((commandRows cfg).map Prod.fst).Nodup := hcodes.1
  rw [decodeCommand_eq_lookup, lookup_of_mem hkeys hrow, Option.getD_some]

/-- A command byte is one of the assigned rows, or it is no command code and one of the two unassigned rows
(30_encoding.md R102). -/
theorem decodeCommand_cases (cfg : Config) (b : Byte) :
    (b, decodeCommand cfg b) ∈ commandRows cfg ∨
    (b ∉ cfg.command.toList ∧ decodeCommand cfg b = if b = 0x0A then .unassigned0A else .unassignedDefault b) := by
  rw [decodeCommand_eq_lookup]
  cases hlookup : (commandRows cfg).lookup b with
  | some i =>
    obtain ⟨before, after, hrows, -⟩ := List.lookup_eq_some_iff.mp hlookup
    exact .inl (by simp [hrows])
  | none =>
    refine .inr ⟨fun hb => ?_, rfl⟩
    rw [← commandRows_keys, List.mem_map] at hb
    obtain ⟨row, hrow, rfl⟩ := hb
    exact bne_iff_ne.mp (List.lookup_eq_none_iff.mp hlookup row hrow) rfl

/-- Every row of the command table is the encoding of its instruction, which is well-formed where command bytes are
expected. -/
theorem commandRows_spec {cfg : Config} {ctx : Ctx} (hctx : ctx.isHost .waitingForCommand = true) {b : Byte} {i : Instr}
    (hrow : (b, i) ∈ commandRows cfg) : i.wellFormed cfg ctx = true ∧ encode cfg i = [b] := by
  simp only [commandRows, List.mem_cons, Prod.mk.injEq, List.not_mem_nil, or_false] at hrow
  rcases hrow with ⟨rfl, rfl⟩ | ⟨rfl, rfl⟩ | ⟨rfl, rfl⟩ | ⟨rfl, rfl⟩ | ⟨rfl, rfl⟩ | ⟨rfl, rfl⟩ | ⟨rfl, rfl⟩ | ⟨rfl, rfl⟩ |
    ⟨rfl, rfl⟩ | ⟨rfl, rfl⟩ | ⟨rfl, rfl⟩ | ⟨rfl, rfl⟩ | ⟨rfl, rfl⟩ | ⟨rfl, rfl⟩ | ⟨rfl, rfl⟩ | ⟨rfl, rfl⟩ | ⟨rfl, rfl⟩ |
    ⟨rfl, rfl⟩
  all_goals exact ⟨hctx, rfl⟩

/-! ### Decoding one byte -/

theorem decode_host_cons {c : ControlState} (hc : c ≠ .handedOff) (cfg : Config) (inBody : Bool) (b : Byte)
    (rest : List Byte) :
    decode cfg (.host c inBody) (b :: rest) = (decodeHost cfg c inBody b).map (fun i => (i, rest)) := by
  cases c
  case handedOff => exact absurd rfl hc
  all_goals rfl

theorem decode_lane_cons (cfg : Config) (l : Lane) (f : Family) (st : AlgState) (bo : Bool) (a : Word) (d : Byte)
    (rest : List Byte) :
    decode cfg (.lane l f st bo a) (d :: rest) = .ok (decodeLane cfg l f st bo a d, rest) := rfl

/-- The encoding of what a lane's byte decodes to is the byte. -/
theorem encode_decodeLane (cfg : Config) (l : Lane) (f : Family) (st : AlgState) (bo : Bool) (a : Word) (d : Byte) :
    encode cfg (decodeLane cfg l f st bo a d) = [d] := by
  cases st
  all_goals
    unfold decodeLane
    grind [encode]

/-- What a lane's byte decodes to is well-formed in its context. -/
theorem decodeLane_wellFormed (cfg : Config) (l : Lane) (f : Family) (st : AlgState) (bo : Bool) (a : Word)
    (d : Byte) : (decodeLane cfg l f st bo a d).wellFormed cfg (.lane l f st bo a) = true := by
  cases st
  all_goals
    unfold decodeLane
    grind [Instr.wellFormed, Ctx.isLane, Ctx.atUA1, Ctx.atUA2, Ctx.isB, Ctx.isBatch, Ctx.isAnyLane, Ctx.rowMatches]

/-- A well-formed lane instruction is what its byte decodes to. -/
theorem decodeLane_of_wellFormed {cfg : Config} {l : Lane} {f : Family} {st : AlgState} {bo : Bool} {a : Word}
    {d : Byte} {i : Instr} (hi : i.wellFormed cfg (.lane l f st bo a) = true) (hd : encode cfg i = [d]) :
    decodeLane cfg l f st bo a d = i := by
  cases i
  case jcOther =>
    cases st
    all_goals grind [Instr.wellFormed, encode, decodeLane, Ctx.isAnyLane, Ctx.rowMatches]
  all_goals
    grind [Instr.wellFormed, encode, decodeLane, Ctx.isHost, Ctx.isBody, Ctx.isLane, Ctx.atUA1, Ctx.atUA2, Ctx.isB,
      Ctx.isBatch]

/-- What a host byte decodes to, outside `HandedOff`, is well-formed in its context, and its encoding is the byte. -/
theorem decodeHost_spec (cfg : Config) {c : ControlState} (hc : c ≠ .handedOff) (inBody : Bool) (b : Byte) :
    ∃ i, decodeHost cfg c inBody b = .ok i ∧ i.wellFormed cfg (.host c inBody) = true ∧ encode cfg i = [b] := by
  cases c
  case handedOff => exact absurd rfl hc
  case waitingForCommand =>
    refine ⟨_, rfl, ?_⟩
    obtain hrow | ⟨hfree, hdecode⟩ := decodeCommand_cases cfg b
    · exact commandRows_spec (by simp [Ctx.isHost]) hrow
    · rw [hdecode]
      grind [Instr.wellFormed, encode, Ctx.isHost]
  case readingChips =>
    refine ⟨_, rfl, ?_⟩
    grind [decodeReadAck, Instr.wellFormed, encode, Ctx.isHost]
  case writingChips =>
    refine ⟨_, rfl, ?_⟩
    grind [decodeWriteCtl, Instr.wellFormed, encode, Ctx.isHost, Ctx.isBody]
  all_goals exact ⟨_, rfl, by simp [Instr.wellFormed, Ctx.isHost], rfl⟩

/-- A well-formed host instruction is what its byte decodes to. -/
theorem decodeHost_of_wellFormed {cfg : Config} (hcodes : cfg.codesDistinct) {c : ControlState} {inBody : Bool} {b : Byte}
    {i : Instr} (hi : i.wellFormed cfg (.host c inBody) = true) (hb : encode cfg i = [b]) :
    decodeHost cfg c inBody b = .ok i := by
  obtain ⟨-, hread, hwrite⟩ := id hcodes
  cases i
  case unassigned0A | unassignedDefault =>
    obtain hrow | ⟨-, hdecode⟩ := decodeCommand_cases cfg b
    · have hkey : b ∈ cfg.command.toList := List.mem_map_of_mem (f := Prod.fst) hrow
      grind [Instr.wellFormed, encode, Ctx.isHost]
    · grind [Instr.wellFormed, encode, Ctx.isHost, decodeHost]
  case computerReadOK | computerReadCancel | readAckOther =>
    grind [Instr.wellFormed, encode, Ctx.isHost, decodeHost, decodeReadAck]
  case computerWriteMore | computerWriteFinish | computerWriteCancel | writeCtlOther =>
    grind [Instr.wellFormed, encode, Ctx.isHost, decodeHost, decodeWriteCtl]
  case fieldReadStart | fieldReadLength | fieldWriteStart | fieldErasePosLen | maskByte | chunkBodyByte =>
    grind [Instr.wellFormed, encode, Ctx.isHost, Ctx.isBody, decodeHost]
  case jcOther => simp [Instr.wellFormed, Ctx.isAnyLane] at hi
  case enterIdle | electricalTest | identify | readByte | readChips | eraseChips | writeChips | getBootloaderState |
      enterBootloader | enterProgrammer | selectFamilyA | selectFamilyB | enableVerify | disableVerify | erasePortion |
      writeChipsAt | readChipsAt | setChipMask =>
    have hctx : c = .waitingForCommand := by grind [Instr.wellFormed, Ctx.isHost]
    cases hb
    cases hctx
    exact congrArg Except.ok (decodeCommand_of_mem hcodes (by simp [commandRows]))
  all_goals simp [Instr.wellFormed, Ctx.isLane] at hi

/-- The encoding of an instruction is one byte. -/
theorem encode_length (cfg : Config) (i : Instr) : ∃ b, encode cfg i = [b] := by
  cases i
  all_goals exact ⟨_, rfl⟩

/-- No instruction is well-formed after the handoff. -/
theorem not_wellFormed_handedOff (cfg : Config) (inBody : Bool) (i : Instr) :
    i.wellFormed cfg (.host .handedOff inBody) = false := by
  cases i
  all_goals rfl

/-! ### The statements -/

/-- Settles O6: the encoding is one byte, and in a host's and in a lane's context a well-formed instruction is what its
byte decodes to. -/
theorem decodeOfEncodeIsTheInstruction : Obligations.DecodeOfEncodeIsTheInstruction := by
  intro cfg ctx i rest hcodes hi
  obtain ⟨b, hb⟩ := encode_length cfg i
  rw [hb, List.singleton_append]
  cases ctx with
  | host c inBody =>
    have hc : c ≠ .handedOff := by
      rintro rfl
      simp [not_wellFormed_handedOff] at hi
    rw [decode_host_cons hc, decodeHost_of_wellFormed hcodes hi hb]
    rfl
  | lane l f st bo a => rw [decode_lane_cons, decodeLane_of_wellFormed hi hb]

/-- Settles O7: the byte decodes to a well-formed instruction with that encoding; any other such instruction is decoded from
the same byte (O6), so it is the same. -/
theorem everyByteIsExactlyOneInstruction : Obligations.EveryByteIsExactlyOneInstruction := by
  intro cfg ctx b rest hctx
  have hexists : ∃ i, decode cfg ctx (b :: rest) = .ok (i, rest) ∧ i.wellFormed cfg ctx = true ∧ encode cfg i = [b] := by
    cases ctx with
    | host c inBody =>
      have hc : c ≠ .handedOff := fun h => hctx inBody (by rw [h])
      obtain ⟨i, hdecode, hspec⟩ := decodeHost_spec cfg hc inBody b
      exact ⟨i, by rw [decode_host_cons hc, hdecode]; rfl, hspec⟩
    | lane l f st bo a =>
      exact ⟨_, decode_lane_cons .., decodeLane_wellFormed .., encode_decodeLane ..⟩
  obtain ⟨i, hdecode, hi, hencode⟩ := hexists
  refine ⟨i, hdecode, hi, hencode, fun hcodes j hj hb => ?_⟩
  have hj' := decodeOfEncodeIsTheInstruction cfg ctx j rest hcodes hj
  rw [hb, List.singleton_append, hdecode] at hj'
  cases hj'
  rfl

/-- Settles O5: each byte is looked up in its context's table under the default codes. -/
theorem writtenOutBytesDecode : Obligations.WrittenOutBytesDecode := by
  refine ⟨rfl, rfl, rfl, rfl, rfl, rfl, rfl, ?_, ?_, rfl⟩
  all_goals decide

end Sys2Proof

namespace Sys2Proof.Machine

/-- A step with a byte for the dispatcher runs what the byte decodes to, with the byte taken. -/
theorem step_of_ready {s : State} {b : Byte} {rest : List Byte} (hready : s.Ready b rest) {i : Instr}
    (hdecode : decode s.cfg s.ctx s.rx = .ok (i, rest)) : step s = exec i { s with rx := rest } := by
  obtain ⟨hhung, hbench, -, -⟩ := hready
  simp [step, State.nextWork, State.dispatcherWork, hbench, hhung, hdecode]

/-- Settles O4: by `decodeHost_spec` the byte is a well-formed instruction, and the dispatcher runs it. -/
theorem stepRunsDecodedByte : Obligations.StepRunsDecodedByte := by
  intro s b rest hready
  obtain ⟨i, hdecode, hi, -, -⟩ := everyByteIsExactlyOneInstruction s.cfg s.ctx b rest
    (fun _ hctx => hready.2.2.1 (Ctx.host.inj hctx).1)
  exact ⟨i, hdecode, hi, step_of_ready hready (by rw [hready.2.2.2, hdecode])⟩

end Sys2Proof.Machine
end

section
/-! The rows with operand bytes, the commands that use the sequencer, and the steps that are no instruction: one equation per
instruction in the terms of the model's operations, when each request is good, and the statements about single rows. -/

namespace Sys2Proof.Machine

/-! ### Reset, power cycle and the stops -/

/-- Settles O1: every field is read off the reset state; the content of an erased chip reads blank. -/
theorem resetLeavesIdleSession : Obligations.ResetLeavesIdleSession := by
  refine ⟨rfl, rfl, rfl, rfl, rfl, rfl, rfl, rfl, rfl, rfl, rfl, rfl, rfl, rfl, fun l => ?_⟩
  have hchip : State.reset.io.chips.get l = Chip.fresh .familyA modelMfrA modelDevA Memory.erased := Lanes.get_same _ l
  rw [hchip]
  exact ⟨⟨rfl, rfl, rfl⟩, ⟨rfl, rfl, rfl⟩, rfl, rfl, rfl, rfl, rfl, fun _ => rfl⟩

/-- Settles O2: the default parameters meet the constraints of 00_scope.md R9, the session is idle, and a fresh erased chip
is in a legal state. -/
theorem resetSatisfiesInvariant : Obligations.ResetSatisfiesInvariant := by
  refine ⟨by decide, ?session, ?chips⟩
  case session => decide
  case chips => decide

/-- Settles O11, by the order of `State.nextWork`: the hang first, then the control state. -/
theorem noStepAfterHangOrHandoff : Obligations.NoStepAfterHangOrHandoff := by
  intro s hbench
  refine ⟨fun hhung => ?hang, fun hhung hcontrol => ?handoff⟩
  case hang => simp [step, State.nextWork, hbench, hhung]
  case handoff => simp [step, State.nextWork, State.dispatcherWork, State.ctx, decode, hbench, hhung, hcontrol]

/-- Settles O10: without a byte the poll changes nothing, and in a body any byte decodes to a body byte. -/
theorem blockedBodyWaitsAndResumes : Obligations.BlockedBodyWaitsAndResumes := by
  rintro s b rest ⟨hhung, hbench, hcontrol, hbody, hrx⟩
  have hctx : s.ctx = .host .writingChips true := by rw [State.ctx, hcontrol, hbody]
  refine ⟨?waits, ?resumes⟩
  case waits => simp [step, State.nextWork, State.dispatcherWork, hctx, decode, hbench, hhung, hrx]
  case resumes =>
    have hready : ({ s with rx := b :: rest } : State).Ready b rest := ⟨hhung, hbench, by simp [hcontrol], rfl⟩
    refine step_of_ready hready ?_
    change decode s.cfg s.ctx (b :: rest) = _
    rw [hctx]
    rfl

/-- The step that takes a power cycle. -/
theorem step_powerCycle {s : State} {rest : List BenchEvent} (hbench : s.bench = .powerCycle :: rest) :
    step s = .next (s.powerCycle rest) := by
  simp [step, State.nextWork, hbench]

/-- Settles O12: the step is the power cycle, which resets all but the chips and the pending inputs. -/
theorem powerCycleKeepsFlashOnly : Obligations.PowerCycleKeepsFlashOnly := by
  intro s rest hbench
  exact ⟨s.powerCycle rest, step_powerCycle hbench, rfl, rfl, rfl, rfl, rfl, rfl, rfl, rfl, rfl, rfl, rfl, rfl, rfl, rfl, rfl,
    rfl⟩

/-! ### Error exits -/

/-- The verify byte under the default codes: bit 7 set, bits 6 to 4 clear, the failure mask reversed below
(30_encoding.md R114). -/
theorem verifyByte_default (m : Mask) :
    (defaultReplies.verifyByte m).getLsbD 7 = true ∧ (defaultReplies.verifyByte m).getLsbD 6 = false ∧
    (defaultReplies.verifyByte m).getLsbD 5 = false ∧ (defaultReplies.verifyByte m).getLsbD 4 = false ∧
    ∀ l : Lane, (defaultReplies.verifyByte m).getLsbD (3 - l.val) = m.getLsbD l.val := by
  revert m
  decide

/-- Settles O14: an exit is a `finish` with its own reply, which is no bus cycle. -/
theorem errorExitsReplyAndGoIdle : Obligations.ErrorExitsReplyAndGoIdle := by
  refine ⟨fun s e => ⟨?_, ?_, ?_⟩, rfl, rfl, rfl, rfl, rfl, rfl, fun m => ⟨_, rfl, verifyByte_default m⟩⟩
  · rw [State.raise_eq_finish, State.finish_eq]
  · rw [State.raise_io, Io.cycles_tx]
  · rw [State.raise_io, Io.tx_chips]

/-! ### Commands that use the sequencer or hand off -/

theorem exec_enterBootloader (s : State) :
    exec .enterBootloader s = .next { (s.tx [s.cfg.reply.ok]).flush with control := .handedOff } := rfl

theorem exec_electricalTest (s : State) :
    exec .electricalTest s =
      .next (((s.tx [s.cfg.reply.ok]).flush.runElectricalTest).finish
        (failEntries s.cfg.reply s.electricalResult.fails ++ [s.cfg.reply.electricalTestDone])) := rfl

theorem exec_identify (s : State) :
    exec .identify s =
      .next (({ s with io := (seqIdentify s.cfg s.family (s.io.tx [s.cfg.reply.ok])).2 } : State).finish
        ((seqIdentify s.cfg s.family (s.io.tx [s.cfg.reply.ok])).1 ++ [s.cfg.reply.identifyDone])) := rfl

theorem exec_eraseChips (s : State) :
    exec .eraseChips s =
      s.afterSeq (seqEraseAll s.cfg s.family s.chipMask s.io) (fun _ s => .next (s.finish [s.cfg.reply.ok])) := rfl

/-- Settles O21: OK, flush, and a control state in which O11 leaves no step. -/
theorem enterBootloaderHandsOff : Obligations.EnterBootloaderHandsOff := by
  intro s
  let t : State := { (s.tx [s.cfg.reply.ok]).flush with control := .handedOff }
  refine ⟨t, exec_enterBootloader s, ?frame, fun _ _ => rfl,
    fun hbench hhung => (noStepAfterHangOrHandoff t hbench).2 hhung rfl⟩
  case frame => simp [t, State.tx, State.flush, Io.tx, Io.flush]

/-- Settles O17: the three bytes of every pair reported, between OK with its flush and Done. -/
theorem electricalTestReportsEveryPair : Obligations.ElectricalTestReportsEveryPair := by
  intro s
  refine ⟨s.electricalResult.fails, touchChips s.cfg s.io.chips s.electricalResult, s.etest.tail,
    if s.etest.isEmpty then s.freeCount + 1 else s.freeCount, ?_, fun r rest hr => ?_⟩
  · have hpairs : (failEntries s.cfg.reply s.electricalResult.fails).map IoEvent.tx =
        s.electricalResult.fails.flatMap (fun p => [.tx s.cfg.reply.electricalTestFail, .tx p.1, .tx p.2]) := by
      simp [failEntries, List.map_flatMap]
    have hsame : (s.tx [s.cfg.reply.ok]).flush.electricalResult = s.electricalResult := rfl
    rw [exec_electricalTest, State.finish_eq]
    simp [State.runElectricalTest, hsame, Io.tx, hpairs]
  · have hres : s.electricalResult = r := by rw [State.electricalResult, hr]
    refine ⟨by rw [hres], by rw [hr, List.tail_cons], by simp [hr], fun hnone => ?_⟩
    rw [hres, touchChips, hnone]

/-- Settles O18: `unlock` of all chips masks nothing, and the reply is the eight identity bytes and Done. -/
theorem identifyCyclesAndReply : Obligations.IdentifyCyclesAndReply := by
  intro s
  dsimp only
  rw [exec_identify, State.finish_eq]
  simp [seqIdentify, seqUnlock, identityBytes]

/-! ### Field bytes (41_protocol_dispatcher.md R220 to R222, R240) -/

/-- The field counter comes to four exactly from three. -/
theorem cnt_succ_eq_four : ∀ n : BitVec 4, n + 1 = 4 ↔ n = 3 := by decide

/-- The field counter comes to eight exactly from seven. -/
theorem cnt_succ_eq_eight : ∀ n : BitVec 4, n + 1 = 8 ↔ n = 7 := by decide

theorem exec_fieldReadStart (b : Byte) (s : State) :
    exec (.fieldReadStart b) s =
      if s.cnt = 3 then
        .next { (s.takePosByte b).tx [s.cfg.reply.readOK] with cnt := 0, len := 0, control := .readingChipsReadLength }
      else .next (s.takePosByte b) := by
  change (if s.cnt + 1 = 4 then _ else _) = _
  simp only [cnt_succ_eq_four]
  rfl

theorem exec_fieldReadLength (b : Byte) (s : State) :
    exec (.fieldReadLength b) s =
      if s.cnt = 3 then
        if (s.takeLenByte b).readRequestOk then .next (s.takeLenByte b).startRead
        else .next ((s.takeLenByte b).raise .readRefused)
      else .next (s.takeLenByte b) := by
  change (if s.cnt + 1 = 4 then _ else _) = _
  simp only [cnt_succ_eq_four]

theorem exec_fieldWriteStart (b : Byte) (s : State) :
    exec (.fieldWriteStart b) s =
      if s.cnt = 3 then
        if (s.takePosByte b).writeStartOk then
          .next { (s.takePosByte b).tx [s.cfg.reply.writeOK] with
            cursor := chunkOf (s.takePosByte b).pos.toNat, control := .writingChips }
        else .next ((s.takePosByte b).raise .writeRefused)
      else .next (s.takePosByte b) := by
  change (if s.cnt + 1 = 4 then _ else _) = _
  simp only [cnt_succ_eq_four]
  rfl

/-- One byte of the erase-portion payload: the position first, then the length; nothing else but the count moves. -/
theorem State.takeEraseByte_eq (s : State) (b : Byte) :
    s.takeEraseByte b =
      { s with
        pos := if s.cnt.toNat < 4 then accumulate s.pos b s.cnt.toNat else s.pos
        len := if s.cnt.toNat < 4 then s.len else accumulate s.len b (s.cnt.toNat - 4)
        cnt := s.cnt + 1 } := by
  unfold State.takeEraseByte
  split <;> rfl

theorem exec_fieldErasePosLen (b : Byte) (s : State) :
    exec (.fieldErasePosLen b) s =
      if s.cnt = 7 then
        if (s.takeEraseByte b).eraseRequestOk then (s.takeEraseByte b).erasePortion
        else .next ((s.takeEraseByte b).raise .eraseRefused)
      else .next (s.takeEraseByte b) := by
  have hcnt : (s.takeEraseByte b).cnt = s.cnt + 1 := by rw [State.takeEraseByte_eq]
  change (if (s.takeEraseByte b).cnt = 8 then _ else _) = _
  simp only [hcnt, cnt_succ_eq_eight]

theorem State.takeLenByte_fourth {s : State} (hcnt : s.cnt = 3) (b : Byte) :
    s.takeLenByte b = { s with len := accumulate s.len b s.cnt.toNat, cnt := 4 } := by
  rw [State.takeLenByte, (cnt_succ_eq_four _).mpr hcnt]

theorem State.takePosByte_fourth {s : State} (hcnt : s.cnt = 3) (b : Byte) :
    s.takePosByte b = { s with pos := accumulate s.pos b s.cnt.toNat, cnt := 4 } := by
  rw [State.takePosByte, (cnt_succ_eq_four _).mpr hcnt]

/-- When a read request is good (41_protocol_dispatcher.md R221). -/
theorem State.readRequestOk_iff (s : State) :
    s.readRequestOk = true ↔
      s.len ≠ 0 ∧ s.len.toNat % 1024 = 0 ∧ s.pos.toNat % 1024 = 0 ∧
        s.pos.toNat + s.len.toNat ≤ 4 * s.cfg.maxChipSize := by
  simp [State.readRequestOk, chunkBytes, and_assoc]

/-- When a write start is good (41_protocol_dispatcher.md R222). -/
theorem State.writeStartOk_iff (s : State) : s.writeStartOk = true ↔ s.pos.toNat % 1024 = 0 := by
  simp [State.writeStartOk, chunkBytes]

/-- When an erase-portion request is good (41_protocol_dispatcher.md R240). -/
theorem State.eraseRequestOk_iff (s : State) :
    s.eraseRequestOk = true ↔
      s.pos.toNat % s.cfg.eraseGranule = 0 ∧ s.len.toNat % s.cfg.eraseGranule = 0 ∧
        s.pos.toNat + s.len.toNat ≤ 4 * s.cfg.cap s.family := by
  simp [State.eraseRequestOk, and_assoc]

/-- When there is room for a chunk (41_protocol_dispatcher.md R231). -/
theorem State.chunkFits_iff (s : State) : s.chunkFits = true ↔ (s.cursor.toNat + 1) * 256 ≤ s.cfg.maxChipSize := by
  rw [State.chunkFits, decide_eq_true_iff, chunkWords]

/-- An accepted read: the cursors, and the first chunk after the reply. -/
theorem State.startRead_eq (s : State) :
    s.startRead =
      (({ s with cursor := chunkOf s.pos.toNat, endCursor := chunkOf (s.pos.toNat + s.len.toNat),
                 control := .readingChips } : State).tx [s.cfg.reply.readOK]).sendChunk := rfl

/-- Settles O24: the fourth byte opens the length, any other is accumulated. -/
theorem readStartFieldAccumulates : Obligations.ReadStartFieldAccumulates := by
  intro b s
  rw [exec_fieldReadStart]
  rfl

/-- Settles O25: the three cases are the count and the test of R221; the chunk is `State.sendChunk_eq`. -/
theorem readLengthFieldStartsOrRefuses : Obligations.ReadLengthFieldStartsOrRefuses := by
  intro b s n chunk
  have hlen : (s.takeLenByte b).len = n := rfl
  rw [exec_fieldReadLength]
  by_cases hcnt : s.cnt = 3
  case neg =>
    rw [if_neg hcnt, if_pos hcnt]
    rfl
  case pos =>
    rw [if_pos hcnt, if_neg (not_not.mpr hcnt)]
    have hiff := (s.takeLenByte b).readRequestOk_iff
    rw [State.takeLenByte_pos, State.takeLenByte_cfg, hlen] at hiff
    by_cases hok : (s.takeLenByte b).readRequestOk = true
    · have hgood : ¬ (n = 0 ∨ n.toNat % 1024 ≠ 0 ∨ s.pos.toNat % 1024 ≠ 0 ∨
          4 * s.cfg.maxChipSize < s.pos.toNat + n.toNat) := by grind
      rw [if_pos hok, if_neg hgood, State.startRead_eq, State.sendChunk_eq, State.takeLenByte_fourth hcnt]
      rfl
    · have hbad : n = 0 ∨ n.toNat % 1024 ≠ 0 ∨ s.pos.toNat % 1024 ≠ 0 ∨
          4 * s.cfg.maxChipSize < s.pos.toNat + n.toNat := by grind
      rw [if_neg hok, if_pos hbad, State.takeLenByte_fourth hcnt]
      rfl

/-- Settles O26: the two tests are the count and the alignment. -/
theorem writeStartFieldOpensOrRefuses : Obligations.WriteStartFieldOpensOrRefuses := by
  intro b s p
  have hpos : (s.takePosByte b).pos = p := rfl
  rw [exec_fieldWriteStart]
  by_cases hcnt : s.cnt = 3
  case neg =>
    rw [if_neg hcnt, if_pos hcnt]
    rfl
  case pos =>
    rw [if_pos hcnt, if_neg (not_not.mpr hcnt)]
    have hiff := (s.takePosByte b).writeStartOk_iff
    rw [hpos] at hiff
    by_cases hok : (s.takePosByte b).writeStartOk = true
    · rw [if_pos hok, if_neg (not_not.mpr (hiff.mp hok)), State.takePosByte_fourth hcnt]
      rfl
    · rw [if_neg hok, if_pos (mt hiff.mpr hok), State.takePosByte_fourth hcnt]
      rfl

@[simp] theorem State.takeEraseByte_cfg (s : State) (b : Byte) : (s.takeEraseByte b).cfg = s.cfg := by
  rw [State.takeEraseByte_eq]

@[simp] theorem State.takeEraseByte_family (s : State) (b : Byte) : (s.takeEraseByte b).family = s.family := by
  rw [State.takeEraseByte_eq]

/-- Settles O27: what the byte is collected into is `State.takeEraseByte_eq`, and the test is that of R240. -/
theorem eraseFieldCollectsOrRefuses : Obligations.EraseFieldCollectsOrRefuses := by
  intro b s hcase p n
  have htake : s.takeEraseByte b = { s with pos := p, len := n, cnt := s.cnt + 1 } := s.takeEraseByte_eq b
  refine ⟨by rw [State.eraseRequestOk_iff, htake], ?_⟩
  rw [exec_fieldErasePosLen]
  by_cases hcnt : s.cnt = 7
  case neg => rw [if_neg hcnt, if_pos hcnt, htake]
  case pos =>
    have hbad : (s.takeEraseByte b).eraseRequestOk ≠ true := by simpa [hcnt] using hcase
    rw [if_pos hcnt, if_neg (not_not.mpr hcnt), if_neg hbad, htake, (cnt_succ_eq_eight _).mpr hcnt]
    rfl

/-! ### Acknowledgements, control bytes and body bytes (41_protocol_dispatcher.md R225, R231, R232) -/

theorem exec_computerReadOK (s : State) :
    exec .computerReadOK s =
      if s.endCursor.toNat ≤ (s.cursor + 1).toNat then
        .next (({ s with cursor := s.cursor + 1 } : State).finish [s.cfg.reply.readFinished])
      else .next ((({ s with cursor := s.cursor + 1 } : State).tx [s.cfg.reply.readMoreData]).sendChunk) := rfl

theorem exec_computerWriteMore (s : State) :
    exec .computerWriteMore s =
      if s.chunkFits then .next { s.tx [s.cfg.reply.writeOK] with body := some [] }
      else .next (s.raise .writeRefused) := rfl

theorem exec_chunkBodyByte (b : Byte) (s : State) :
    exec (.chunkBodyByte b) s =
      if (s.body.getD [] ++ [b]).length < 1024 then .next { s with body := some (s.body.getD [] ++ [b]) }
      else s.completeBody (s.body.getD [] ++ [b]) := rfl

/-- Settles O29: the one test is that of R225, and the chunk is `State.sendChunk_eq`. -/
theorem readAckSendsNextChunkOrFinishes : Obligations.ReadAckSendsNextChunkOrFinishes := by
  intro s chunk
  rw [exec_computerReadOK]
  by_cases hend : s.endCursor.toNat ≤ (s.cursor + 1).toNat
  case pos => rw [if_pos hend, if_pos hend, State.finish_eq]
  case neg =>
    rw [if_neg hend, if_neg hend, State.sendChunk_eq]
    rfl

/-- Settles O32: the one test is that of R231. -/
theorem writeMoreOpensBodyOrRefuses : Obligations.WriteMoreOpensBodyOrRefuses := by
  intro s
  rw [exec_computerWriteMore]
  by_cases hfits : s.chunkFits = true
  case pos =>
    rw [if_pos hfits, if_neg (Nat.not_lt.mpr (s.chunkFits_iff.mp hfits)), State.tx_eq]
  case neg =>
    rw [if_neg hfits, if_pos (Nat.lt_of_not_le (mt s.chunkFits_iff.mpr hfits)), State.raise_eq_finish, State.finish_eq,
      ErrorExit.reply]

/-- Settles O33: with fewer than 1023 bytes before it the byte is not the last. -/
theorem bodyByteIsStored : Obligations.BodyByteIsStored := by
  intro b s bytes hbody hlen
  have hshort : (s.body.getD [] ++ [b]).length < 1024 := by simp [hbody]; omega
  rw [exec_chunkBodyByte, if_pos hshort, hbody, Option.getD_some]

/-! ### `eraseSectors` and its alignment test (40_flash_sequencer.md R147) -/

/-- An aligned FamilyA request is the loop of R148. -/
theorem seqEraseSectors_familyA {address length : Word} (haddress : address.toNat % 0x1000 = 0)
    (hlength : length.toNat % 0x1000 = 0) (cfg : Config) (m : Mask) (io : Io) :
    seqEraseSectors cfg .familyA m io address length =
      (seqEraseSectorsA cfg m io address (length.toNat / 0x1000)).bind (fun _ io => .done true io) :=
  if_neg (by simp [sectorSize, haddress, hlength])

/-- An aligned FamilyB request is the batch of R149. -/
theorem seqEraseSectors_familyB {address length : Word} (haddress : address.toNat % 0x10000 = 0)
    (hlength : length.toNat % 0x10000 = 0) (cfg : Config) (m : Mask) (io : Io) :
    seqEraseSectors cfg .familyB m io address length =
      (seqEraseSectorsB cfg m io address (length.toNat / 0x10000)).bind (fun _ io => .done true io) :=
  if_neg (by simp [sectorSize, haddress, hlength])

/-- What goes on with `true` does not end with `false`. -/
theorem SeqResult.bind_done_ne {α β : Type} {x y : β} (hne : x ≠ y) (r : SeqResult α) (io : Io) :
    r.bind (fun _ io => .done x io) ≠ .done y io := by
  cases r with
  | done _ io' => exact fun h => hne (by cases h; rfl)
  | hang => nofun
  | timeout => nofun

/-- Settles O60: the alignment test comes first, and an aligned request ends with `true` or does not end. -/
theorem misalignedSectorEraseTouchesNoBus : Obligations.MisalignedSectorEraseTouchesNoBus := by
  intro cfg f m io address length
  refine ⟨fun hbad => if_pos hbad, fun haddress hlength io' => ?_⟩
  cases f with
  | familyA =>
    rw [seqEraseSectors_familyA haddress hlength]
    exact SeqResult.bind_done_ne (by decide) _ _
  | familyB =>
    rw [seqEraseSectors_familyB haddress hlength]
    exact SeqResult.bind_done_ne (by decide) _ _

end Sys2Proof.Machine
end

section
/-! What one instruction can leave of the state: the ways a step that calls the sequencer answers, the registers that only
their own commands write, the control state, and the bytes still in RX, which no instruction looks at. -/

namespace Sys2Proof.Machine

/-! ### The rows that call the sequencer and the rows of one lane -/

/-- Where `ERASE_CHIPS` answers a state: OK and idle, or hung. -/
theorem exec_eraseChips_next {s t : State} (h : exec .eraseChips s = .next t) :
    (∃ io, seqEraseAll s.cfg s.family s.chipMask s.io = .done () io ∧
      t = ({ s with io := io } : State).finish [s.cfg.reply.ok]) ∨
    (∃ io, seqEraseAll s.cfg s.family s.chipMask s.io = .hang io ∧ t = { s with io := io, hung := true }) := by
  rw [exec_eraseChips] at h
  obtain ⟨_, io, hseq, hnext⟩ | hhang := State.afterSeq_next h
  · exact .inl ⟨io, hseq, (Host.Outcome.next.inj hnext).symm⟩
  · exact .inr hhang

/-- A good erase-portion request: OK, flush, the erase, and how it went (41_protocol_dispatcher.md R240). -/
theorem State.erasePortion_eq (s : State) :
    s.erasePortion =
      (s.tx [s.cfg.reply.erasePortionOK]).flush.afterSeq
        (seqEraseSectors s.cfg s.family s.chipMask ((s.io.tx [s.cfg.reply.erasePortionOK]).flush) (sharedAddr s.pos)
          (sharedAddr s.len))
        (fun ok s => if ok then .next (s.finish [s.cfg.reply.erasePortionFinished]) else .next (s.raise .eraseFailed)) :=
  rfl

/-- Where the erase of a portion answers a state: a reply and idle, or hung. -/
theorem State.erasePortion_next {s t : State} (h : s.erasePortion = .next t) :
    (∃ io bs, t = ({ s with io := io } : State).finish bs) ∨ (∃ io, t = { s with io := io, hung := true }) := by
  rw [State.erasePortion_eq] at h
  obtain ⟨ok, io, -, hnext⟩ | ⟨io, -, rfl⟩ := State.afterSeq_next h
  · left
    split at hnext
    · exact ⟨io, _, (Host.Outcome.next.inj hnext).symm⟩
    · exact ⟨io, _, (Host.Outcome.next.inj hnext).symm⟩
  · exact .inr ⟨io, rfl⟩

theorem State.verifyChunk_of_not_verify {s : State} (hverify : ¬ s.verify = true) (words : List Word) :
    s.verifyChunk words = s.chunkWritten := if_neg hverify

/-- How a chunk that was read back as the words and with the interfaces of `back` ends: in the next chunk, or in the error
exit that names the lanes that differ (41_protocol_dispatcher.md R234, R235). -/
def State.judge (s : State) (words : List Word) (back : List Word × Io) : State :=
  if failMask s.chipMask back.1 words = 0 then ({ s with io := back.2 } : State).chunkWritten
  else ({ s with io := back.2 } : State).raise (.verifyFailed (failMask s.chipMask back.1 words))

/-- With verify on the chunk is read back and judged. -/
theorem State.verifyChunk_of_verify {s : State} (hverify : s.verify = true) (words : List Word) :
    s.verifyChunk words = s.judge words (s.io.burstRead s.cfg (s.cursor * 256) 256) := if_pos hverify

/-- What verifying leaves: the next chunk, or with verify on a reply and idle. -/
theorem State.verifyChunk_cases (s : State) (words : List Word) :
    (∃ io, s.verifyChunk words = ({ s with io := io } : State).chunkWritten) ∨
    (s.verify = true ∧ ∃ io bs, s.verifyChunk words = ({ s with io := io } : State).finish bs) := by
  by_cases hverify : s.verify = true
  case neg => exact .inl ⟨s.io, State.verifyChunk_of_not_verify hverify words⟩
  case pos =>
    rw [State.verifyChunk_of_verify hverify, State.judge]
    split
    · exact .inl ⟨_, rfl⟩
    · exact .inr ⟨hverify, _, _, rfl⟩

/-- Where the completion of a body answers a state: the next chunk, with verify on a reply and idle, or hung. -/
theorem State.completeBody_next {s t : State} {bytes : List Byte} (h : s.completeBody bytes = .next t) :
    (∃ io, t = ({ s with body := none, io := io } : State).chunkWritten) ∨
    (s.verify = true ∧ ∃ io bs, t = ({ s with body := none, io := io } : State).finish bs) ∨
    (∃ io, t = { s with body := none, io := io, hung := true }) := by
  obtain ⟨_, io, -, hnext⟩ | ⟨io, -, rfl⟩ := State.afterSeq_next h
  · obtain rfl := Host.Outcome.next.inj hnext
    obtain ⟨io', hverify⟩ | ⟨hon, io', bs, hverify⟩ :=
      ({ s with body := none, io := io } : State).verifyChunk_cases (packWords bytes)
    · exact .inl ⟨io', hverify⟩
    · exact .inr (.inl ⟨hon, io', bs, hverify⟩)
  · exact .inr (.inr ⟨io, rfl⟩)

/-! ### The rows with a test, where they answer a state -/

@[simp] theorem State.takeEraseByte_control (s : State) (b : Byte) : (s.takeEraseByte b).control = s.control := by
  rw [State.takeEraseByte_eq]

@[simp] theorem State.takeEraseByte_cursor (s : State) (b : Byte) : (s.takeEraseByte b).cursor = s.cursor := by
  rw [State.takeEraseByte_eq]

@[simp] theorem State.takeEraseByte_endCursor (s : State) (b : Byte) : (s.takeEraseByte b).endCursor = s.endCursor := by
  rw [State.takeEraseByte_eq]

@[simp] theorem State.takeEraseByte_chipMask (s : State) (b : Byte) : (s.takeEraseByte b).chipMask = s.chipMask := by
  rw [State.takeEraseByte_eq]

@[simp] theorem State.takeEraseByte_verify (s : State) (b : Byte) : (s.takeEraseByte b).verify = s.verify := by
  rw [State.takeEraseByte_eq]

@[simp] theorem State.takeEraseByte_body (s : State) (b : Byte) : (s.takeEraseByte b).body = s.body := by
  rw [State.takeEraseByte_eq]

@[simp] theorem State.takeEraseByte_hung (s : State) (b : Byte) : (s.takeEraseByte b).hung = s.hung := by
  rw [State.takeEraseByte_eq]

@[simp] theorem State.takeEraseByte_rx (s : State) (b : Byte) : (s.takeEraseByte b).rx = s.rx := by
  rw [State.takeEraseByte_eq]

@[simp] theorem State.takeEraseByte_io (s : State) (b : Byte) : (s.takeEraseByte b).io = s.io := by
  rw [State.takeEraseByte_eq]

@[simp] theorem State.takeEraseByte_bench (s : State) (b : Byte) : (s.takeEraseByte b).bench = s.bench := by
  rw [State.takeEraseByte_eq]

@[simp] theorem State.takeEraseByte_etest (s : State) (b : Byte) : (s.takeEraseByte b).etest = s.etest := by
  rw [State.takeEraseByte_eq]

@[simp] theorem State.takeEraseByte_freeCount (s : State) (b : Byte) : (s.takeEraseByte b).freeCount = s.freeCount := by
  rw [State.takeEraseByte_eq]

theorem State.takeEraseByte_cnt (s : State) (b : Byte) : (s.takeEraseByte b).cnt = s.cnt + 1 := by
  rw [State.takeEraseByte_eq]

theorem exec_fieldReadStart_next {b : Byte} {s t : State} (h : exec (.fieldReadStart b) s = .next t) :
    (s.cnt ≠ 3 ∧ t = s.takePosByte b) ∨
    (s.cnt = 3 ∧
      t = { (s.takePosByte b).tx [s.cfg.reply.readOK] with cnt := 0, len := 0, control := .readingChipsReadLength }) := by
  rw [exec_fieldReadStart] at h
  split at h
  case isTrue hcnt => exact .inr ⟨hcnt, (Host.Outcome.next.inj h).symm⟩
  case isFalse hcnt => exact .inl ⟨hcnt, (Host.Outcome.next.inj h).symm⟩

theorem exec_fieldReadLength_next {b : Byte} {s t : State} (h : exec (.fieldReadLength b) s = .next t) :
    (s.cnt ≠ 3 ∧ t = s.takeLenByte b) ∨
    (s.cnt = 3 ∧ (s.takeLenByte b).readRequestOk = true ∧ t = (s.takeLenByte b).startRead) ∨
    (s.cnt = 3 ∧ (s.takeLenByte b).readRequestOk = false ∧ t = (s.takeLenByte b).raise .readRefused) := by
  rw [exec_fieldReadLength] at h
  split at h
  case isTrue hcnt =>
    split at h
    case isTrue hok => exact .inr (.inl ⟨hcnt, hok, (Host.Outcome.next.inj h).symm⟩)
    case isFalse hok => exact .inr (.inr ⟨hcnt, eq_false_of_ne_true hok, (Host.Outcome.next.inj h).symm⟩)
  case isFalse hcnt => exact .inl ⟨hcnt, (Host.Outcome.next.inj h).symm⟩

theorem exec_fieldWriteStart_next {b : Byte} {s t : State} (h : exec (.fieldWriteStart b) s = .next t) :
    (s.cnt ≠ 3 ∧ t = s.takePosByte b) ∨
    (s.cnt = 3 ∧ (s.takePosByte b).writeStartOk = true ∧
      t = { (s.takePosByte b).tx [s.cfg.reply.writeOK] with
            cursor := chunkOf (s.takePosByte b).pos.toNat, control := .writingChips }) ∨
    (s.cnt = 3 ∧ (s.takePosByte b).writeStartOk = false ∧ t = (s.takePosByte b).raise .writeRefused) := by
  rw [exec_fieldWriteStart] at h
  split at h
  case isTrue hcnt =>
    split at h
    case isTrue hok => exact .inr (.inl ⟨hcnt, hok, (Host.Outcome.next.inj h).symm⟩)
    case isFalse hok => exact .inr (.inr ⟨hcnt, eq_false_of_ne_true hok, (Host.Outcome.next.inj h).symm⟩)
  case isFalse hcnt => exact .inl ⟨hcnt, (Host.Outcome.next.inj h).symm⟩

/-- A byte of the erase-portion payload is collected; the last one ends with a reply and idle, or hung. -/
theorem exec_fieldErasePosLen_next {b : Byte} {s t : State} (h : exec (.fieldErasePosLen b) s = .next t) :
    (s.cnt ≠ 7 ∧ t = s.takeEraseByte b) ∨
    (s.cnt = 7 ∧ ∃ io bs, t = ({ s.takeEraseByte b with io := io } : State).finish bs) ∨
    (∃ io, t = { s.takeEraseByte b with io := io, hung := true }) := by
  rw [exec_fieldErasePosLen] at h
  split at h
  case isTrue hcnt =>
    split at h
    · obtain ⟨io, bs, rfl⟩ | ⟨io, rfl⟩ := State.erasePortion_next h
      · exact .inr (.inl ⟨hcnt, io, bs, rfl⟩)
      · exact .inr (.inr ⟨io, rfl⟩)
    · exact .inr (.inl ⟨hcnt, _, _, (Host.Outcome.next.inj h).symm⟩)
  case isFalse hcnt => exact .inl ⟨hcnt, (Host.Outcome.next.inj h).symm⟩

theorem exec_computerReadOK_next {s t : State} (h : exec .computerReadOK s = .next t) :
    (s.endCursor.toNat ≤ (s.cursor + 1).toNat ∧
      t = ({ s with cursor := s.cursor + 1 } : State).finish [s.cfg.reply.readFinished]) ∨
    (¬ s.endCursor.toNat ≤ (s.cursor + 1).toNat ∧
      t = (({ s with cursor := s.cursor + 1 } : State).tx [s.cfg.reply.readMoreData]).sendChunk) := by
  rw [exec_computerReadOK] at h
  split at h
  case isTrue hend => exact .inl ⟨hend, (Host.Outcome.next.inj h).symm⟩
  case isFalse hend => exact .inr ⟨hend, (Host.Outcome.next.inj h).symm⟩

theorem exec_computerWriteMore_next {s t : State} (h : exec .computerWriteMore s = .next t) :
    (s.chunkFits = true ∧ t = { s.tx [s.cfg.reply.writeOK] with body := some [] }) ∨
    (s.chunkFits = false ∧ t = s.raise .writeRefused) := by
  rw [exec_computerWriteMore] at h
  split at h
  case isTrue hfits => exact .inl ⟨hfits, (Host.Outcome.next.inj h).symm⟩
  case isFalse hfits => exact .inr ⟨eq_false_of_ne_true hfits, (Host.Outcome.next.inj h).symm⟩

/-- A body byte is stored; the last one ends as the completion of the body does. -/
theorem exec_chunkBodyByte_next {b : Byte} {s t : State} (h : exec (.chunkBodyByte b) s = .next t) :
    ((s.body.getD []).length < 1023 ∧ t = { s with body := some (s.body.getD [] ++ [b]) }) ∨
    (∃ io, t = ({ s with body := none, io := io } : State).chunkWritten) ∨
    (1023 ≤ (s.body.getD []).length ∧ s.verify = true ∧
      ∃ io bs, t = ({ s with body := none, io := io } : State).finish bs) ∨
    (∃ io, t = { s with body := none, io := io, hung := true }) := by
  rw [exec_chunkBodyByte, List.length_append, List.length_singleton] at h
  split at h
  case isTrue hlen => exact .inl ⟨by omega, (Host.Outcome.next.inj h).symm⟩
  case isFalse hlen =>
    obtain hmore | ⟨hon, hidle⟩ | hhang := State.completeBody_next h
    · exact .inr (.inl hmore)
    · exact .inr (.inr (.inl ⟨by omega, hon, hidle⟩))
    · exact .inr (.inr (.inr hhang))

/-- The rows of a flash cycle change the chip on one lane and nothing of the session. -/
theorem exec_flash_session {s t : State} {l : Lane} {f : Chip → Chip} (h : Host.Outcome.next (s.onLane l f) =
    (.next t : Host.Outcome State Fault Refusal)) : ∃ io, t = { s with io := io } := by
  obtain rfl := Host.Outcome.next.inj h
  exact ⟨_, s.onLane_rest l f⟩

/-! ### The registers that configure later operations (10_state.md R28) -/

/-- The parameters and the three configuration registers are those of another state. -/
structure State.SameConfig (s t : State) : Prop where
  cfg : t.cfg = s.cfg
  family : t.family = s.family
  verify : t.verify = s.verify
  chipMask : t.chipMask = s.chipMask

/-- The instructions that write a configuration register (41_protocol_dispatcher.md R210 to R212, R218, R250). -/
def Instr.writesConfig : Instr → Bool
  | .selectFamilyA | .selectFamilyB | .enableVerify | .disableVerify | .maskByte _ => true
  | _ => false

/-- No other instruction changes a configuration register. -/
theorem exec_sameConfig {i : Instr} (hi : Instr.writesConfig i = false) {s t : State} (h : exec i s = .next t) :
    s.SameConfig t := by
  cases i
  case selectFamilyA | selectFamilyB | enableVerify | disableVerify | maskByte => cases hi
  case eraseChips =>
    obtain ⟨io, -, rfl⟩ | ⟨io, -, rfl⟩ := exec_eraseChips_next h
    all_goals exact ⟨rfl, rfl, rfl, rfl⟩
  case fieldReadStart b =>
    obtain ⟨-, rfl⟩ | ⟨-, rfl⟩ := exec_fieldReadStart_next h
    all_goals exact ⟨rfl, rfl, rfl, rfl⟩
  case fieldReadLength b =>
    obtain ⟨-, rfl⟩ | ⟨-, -, rfl⟩ | ⟨-, -, rfl⟩ := exec_fieldReadLength_next h
    · exact ⟨rfl, rfl, rfl, rfl⟩
    · constructor <;> simp [State.startRead_eq]
    · exact ⟨rfl, rfl, rfl, rfl⟩
  case fieldWriteStart b =>
    obtain ⟨-, rfl⟩ | ⟨-, -, rfl⟩ | ⟨-, -, rfl⟩ := exec_fieldWriteStart_next h
    all_goals exact ⟨rfl, rfl, rfl, rfl⟩
  case fieldErasePosLen b =>
    obtain ⟨-, rfl⟩ | ⟨-, io, bs, rfl⟩ | ⟨io, rfl⟩ := exec_fieldErasePosLen_next h
    all_goals constructor <;> simp
  case chunkBodyByte b =>
    obtain ⟨-, rfl⟩ | ⟨io, rfl⟩ | ⟨-, -, io, bs, rfl⟩ | ⟨io, rfl⟩ := exec_chunkBodyByte_next h
    all_goals exact ⟨rfl, rfl, rfl, rfl⟩
  case computerReadOK =>
    obtain ⟨-, rfl⟩ | ⟨-, rfl⟩ := exec_computerReadOK_next h
    · exact ⟨rfl, rfl, rfl, rfl⟩
    · constructor <;> simp
  case computerWriteMore =>
    obtain ⟨-, rfl⟩ | ⟨-, rfl⟩ := exec_computerWriteMore_next h
    all_goals exact ⟨rfl, rfl, rfl, rfl⟩
  case jcUnlock1 | jcResetF0 | jcUnlock2 | jcSoftwareId | jcProgram | jcEraseSetup | jcBypassEnter | jcResetF0Cmd |
      jcProgramData | jcEraseUnlock1 | jcEraseUnlock2 | jcChipErase | jcSectorErase | jcSectorEraseMore |
      jcBypassProgram | jcBypassReset1 | jcBypassReset2 | jcOther =>
    obtain ⟨io, rfl⟩ := exec_flash_session h
    exact ⟨rfl, rfl, rfl, rfl⟩
  case electricalTest | identify =>
    obtain rfl := Host.Outcome.next.inj h
    constructor <;> simp
  all_goals
    obtain rfl := Host.Outcome.next.inj h
    exact ⟨rfl, rfl, rfl, rfl⟩

/-- Settles O13: five rows write a register, each its own; no other row changes one. -/
theorem configRegistersHaveOwnCommands : Obligations.ConfigRegistersHaveOwnCommands := by
  intro i s t h
  cases i
  case selectFamilyA | selectFamilyB | enableVerify | disableVerify =>
    obtain rfl := Host.Outcome.next.inj h
    exact ⟨rfl, rfl, rfl, rfl⟩
  case maskByte b =>
    by_cases hb : b.toNat ≤ 15
    · rw [exec_maskByte_of_le hb] at h
      obtain rfl := Host.Outcome.next.inj h
      exact ⟨rfl, rfl, rfl, (if_pos hb).symm⟩
    · rw [exec_maskByte_of_not_le hb] at h
      obtain rfl := Host.Outcome.next.inj h
      exact ⟨rfl, rfl, rfl, (if_neg hb).symm⟩
  all_goals
    obtain ⟨hcfg, hfamily, hverify, hmask⟩ := exec_sameConfig rfl h
    exact ⟨hcfg, hfamily, hverify, hmask⟩

/-! ### The bytes still in RX (41_protocol_dispatcher.md R180) -/

/-- The state with other bytes in RX. -/
def State.withRx (s : State) (rx : List Byte) : State := { s with rx := rx }

/-- The same way to end, the next state changed. -/
def mapNext (g : State → State) : Host.Outcome State Fault Refusal → Host.Outcome State Fault Refusal
  | .next t => .next (g t)
  | .fault f => .fault f
  | .refused r => .refused r

/-- A call of the sequencer does not look at RX, if what goes on after it does not. -/
theorem State.afterSeq_withRx {α : Type} (s : State) (rx : List Byte) (r : SeqResult α)
    {k : α → State → Host.Outcome State Fault Refusal}
    (hk : ∀ x s, k x (s.withRx rx) = mapNext (fun t => t.withRx rx) (k x s)) :
    (s.withRx rx).afterSeq r k = mapNext (fun t => t.withRx rx) (s.afterSeq r k) := by
  cases r with
  | done x io => exact hk x { s with io := io }
  | hang io => rfl
  | timeout => rfl

theorem State.onLane_withRx (s : State) (rx : List Byte) (l : Lane) (f : Chip → Chip) :
    (s.withRx rx).onLane l f = (s.onLane l f).withRx rx := by
  unfold State.onLane
  by_cases hfitted : (s.io.chips.get l).fitted = true
  · rw [if_pos hfitted, if_pos (by exact hfitted)]
    rfl
  · rw [if_neg hfitted, if_neg (by exact hfitted)]

theorem State.sendChunk_withRx (s : State) (rx : List Byte) : (s.withRx rx).sendChunk = s.sendChunk.withRx rx := by
  simp only [State.sendChunk_eq, State.withRx]

theorem mapNext_ite (g : State → State) (p : Prop) [Decidable p] (x y : Host.Outcome State Fault Refusal) :
    mapNext g (if p then x else y) = if p then mapNext g x else mapNext g y := apply_ite (mapNext g) p x y

theorem State.judge_withRx (s : State) (rx : List Byte) (words : List Word) (back : List Word × Io) :
    (s.withRx rx).judge words back = (s.judge words back).withRx rx := by
  by_cases hmask : failMask s.chipMask back.1 words = 0
  · rw [State.judge, State.judge, if_pos hmask, if_pos (by exact hmask)]
    rfl
  · rw [State.judge, State.judge, if_neg hmask, if_neg (by exact hmask)]
    rfl

theorem State.verifyChunk_withRx (s : State) (rx : List Byte) (words : List Word) :
    (s.withRx rx).verifyChunk words = (s.verifyChunk words).withRx rx := by
  by_cases hverify : s.verify = true
  case neg => rw [State.verifyChunk_of_not_verify hverify, State.verifyChunk_of_not_verify (by exact hverify)]; rfl
  case pos =>
    rw [State.verifyChunk_of_verify hverify, State.verifyChunk_of_verify (by exact hverify)]
    exact State.judge_withRx s rx words _

theorem State.startRead_withRx (s : State) (rx : List Byte) : (s.withRx rx).startRead = s.startRead.withRx rx := by
  rw [State.startRead_eq, State.startRead_eq, ← State.sendChunk_withRx]
  rfl

theorem State.takeEraseByte_withRx (s : State) (rx : List Byte) (b : Byte) :
    (s.withRx rx).takeEraseByte b = (s.takeEraseByte b).withRx rx := by
  rw [State.takeEraseByte_eq, State.takeEraseByte_eq]
  rfl

theorem State.erasePortion_withRx (s : State) (rx : List Byte) :
    (s.withRx rx).erasePortion = mapNext (fun t => t.withRx rx) s.erasePortion := by
  rw [State.erasePortion_eq, State.erasePortion_eq]
  refine State.afterSeq_withRx (s.tx [s.cfg.reply.erasePortionOK]).flush rx _ fun ok s => ?_
  rw [mapNext_ite]
  rfl

theorem State.completeBody_withRx (s : State) (rx : List Byte) (bytes : List Byte) :
    (s.withRx rx).completeBody bytes = mapNext (fun t => t.withRx rx) (s.completeBody bytes) :=
  State.afterSeq_withRx { s with body := none } rx _
    (k := fun _ s => .next (s.verifyChunk (packWords bytes)))
    fun _ s => congrArg Host.Outcome.next (s.verifyChunk_withRx rx _)

/-- No instruction looks at the bytes still in RX: with other bytes there it ends the same way, and leaves those. -/
theorem exec_withRx (i : Instr) (s : State) (rx : List Byte) :
    exec i (s.withRx rx) = mapNext (fun t => t.withRx rx) (exec i s) := by
  cases i
  case eraseChips =>
    exact State.afterSeq_withRx s rx _ (k := fun _ s => .next (s.finish [s.cfg.reply.ok])) fun _ _ => rfl
  case fieldReadStart b =>
    rw [exec_fieldReadStart, exec_fieldReadStart, mapNext_ite]
    rfl
  case fieldReadLength b =>
    rw [exec_fieldReadLength, exec_fieldReadLength, mapNext_ite, mapNext_ite]
    exact if_congr Iff.rfl
      (if_congr Iff.rfl (congrArg Host.Outcome.next ((s.takeLenByte b).startRead_withRx rx)) rfl) rfl
  case fieldWriteStart b =>
    rw [exec_fieldWriteStart, exec_fieldWriteStart, mapNext_ite, mapNext_ite]
    rfl
  case fieldErasePosLen b =>
    rw [exec_fieldErasePosLen, exec_fieldErasePosLen, mapNext_ite, mapNext_ite, State.takeEraseByte_withRx]
    exact if_congr Iff.rfl (if_congr Iff.rfl ((s.takeEraseByte b).erasePortion_withRx rx) rfl) rfl
  case maskByte b =>
    by_cases hb : b.toNat ≤ 15
    · rw [exec_maskByte_of_le hb, exec_maskByte_of_le hb]
      rfl
    · rw [exec_maskByte_of_not_le hb, exec_maskByte_of_not_le hb]
      rfl
  case chunkBodyByte b =>
    rw [exec_chunkBodyByte, exec_chunkBodyByte, mapNext_ite]
    exact if_congr Iff.rfl rfl (s.completeBody_withRx rx _)
  case computerReadOK =>
    rw [exec_computerReadOK, exec_computerReadOK, mapNext_ite]
    have hchunk := (({ s with cursor := s.cursor + 1 } : State).tx [s.cfg.reply.readMoreData]).sendChunk_withRx rx
    exact if_congr Iff.rfl rfl (congrArg Host.Outcome.next hchunk)
  case computerWriteMore =>
    rw [exec_computerWriteMore, exec_computerWriteMore, mapNext_ite]
    rfl
  case jcUnlock1 | jcResetF0 | jcUnlock2 | jcSoftwareId | jcProgram | jcEraseSetup | jcBypassEnter | jcResetF0Cmd |
      jcProgramData | jcEraseUnlock1 | jcEraseUnlock2 | jcChipErase | jcSectorErase | jcSectorEraseMore |
      jcBypassProgram | jcBypassReset1 | jcBypassReset2 | jcOther =>
    exact congrArg Host.Outcome.next (State.onLane_withRx s rx _ _)
  all_goals rfl

/-- An instruction takes no byte from RX: its own was taken before it ran. -/
theorem exec_rx {i : Instr} {s t : State} (h : exec i s = .next t) : t.rx = s.rx := by
  have hsame := exec_withRx i s s.rx
  change exec i s = _ at hsame
  rw [h] at hsame
  have hfix : t = t.withRx s.rx := Host.Outcome.next.inj (by exact hsame)
  calc t.rx = (t.withRx s.rx).rx := congrArg State.rx hfix
    _ = s.rx := rfl

/-- A byte decodes alike whatever follows it. -/
theorem decode_append {cfg : Config} {ctx : Ctx} {b : Byte} {rest : List Byte} {i : Instr}
    (h : decode cfg ctx (b :: rest) = .ok (i, rest)) (more : List Byte) :
    decode cfg ctx (b :: (rest ++ more)) = .ok (i, rest ++ more) := by
  have hctx : ∀ inBody, ctx ≠ .host .handedOff inBody := by
    rintro inBody rfl
    cases h
  cases ctx with
  | lane l f st bo a =>
    rw [decode_lane_cons] at h ⊢
    cases h
    rfl
  | host c inBody =>
    have hc : c ≠ .handedOff := fun hc => hctx inBody (by rw [hc])
    obtain ⟨j, hj, -⟩ := decodeHost_spec cfg hc inBody b
    rw [decode_host_cons hc, hj] at h ⊢
    cases h
    rfl

/-- Settles O9: the first byte decodes alike, and by `exec_withRx` the instruction leaves what follows it as it is. -/
theorem stepIgnoresLaterBytes : Obligations.StepIgnoresLaterBytes := by
  intro s t b rest more hready h
  obtain ⟨i, hdecode, -, hstep⟩ := stepRunsDecodedByte s b rest hready
  obtain ⟨hhung, hbench, hcontrol, hrx⟩ := hready
  rw [hstep] at h
  have hready' : ({ s with rx := s.rx ++ more } : State).Ready b (rest ++ more) :=
    ⟨hhung, hbench, hcontrol, by simp [hrx]⟩
  have hdecode' : decode s.cfg s.ctx (s.rx ++ more) = .ok (i, rest ++ more) := by
    rw [hrx, List.cons_append]
    exact decode_append hdecode more
  have hmore := exec_withRx i { s with rx := rest } (rest ++ more)
  rw [h] at hmore
  rw [step_of_ready hready' hdecode', exec_rx h]
  exact hmore

end Sys2Proof.Machine
end

section
/-! The control state after an instruction (41_protocol_dispatcher.md R182), and the invariant every step keeps: the session by
the instruction's row, the chips because every bus cycle keeps a socket in a state the spec allows. -/

namespace Sys2Proof

theorem Config.cap_pos {cfg : Config} (hcfg : cfg.wf) : ∀ f, 0 < cfg.cap f
  | .familyA => hcfg.1
  | .familyB => hcfg.2.1

/-- What the chips see of an address has `ADDR_LINES` bits. -/
theorem Config.busAddr_lt (cfg : Config) (a : Word) : (cfg.busAddr a).toNat < 2 ^ cfg.addrLines := by
  rw [Config.busAddr, BitVec.toNat_ofNat]
  exact (Nat.mod_le _ _).trans_lt (Nat.mod_lt _ (by positivity))

end Sys2Proof

namespace Sys2Proof.Machine

/-! ### The context of the byte that is run -/

theorem State.control_of_isHost {s : State} {c : ControlState} (h : s.ctx.isHost c = true) :
    s.control = c ∧ (c = .writingChips → s.body = none) := by
  simp only [State.ctx, Ctx.isHost, Bool.and_eq_true, Bool.not_eq_true', Bool.and_eq_false_iff, beq_iff_eq] at h
  obtain ⟨rfl, hbody⟩ := h
  refine ⟨rfl, fun hc => ?_⟩
  simpa [hc] using hbody

theorem State.control_of_isBody {s : State} (h : s.ctx.isBody = true) :
    s.control = .writingChips ∧ ∃ bytes, s.body = some bytes := by
  simpa [State.ctx, Ctx.isBody, Option.isSome_iff_exists] using h

/-- What a byte of RX decodes to is well-formed in the context of the step. -/
theorem State.wellFormed_of_decode {s : State} {i : Instr} {rest : List Byte}
    (h : decode s.cfg s.ctx s.rx = .ok (i, rest)) : i.wellFormed s.cfg s.ctx = true := by
  cases hrx : s.rx with
  | nil =>
    rw [hrx, State.ctx] at h
    cases hcontrol : s.control
    all_goals
      rw [hcontrol] at h
      cases h
  | cons b bytes =>
    rw [hrx] at h
    have hctx : ∀ inBody, s.ctx ≠ .host .handedOff inBody := by
      rintro inBody hctx
      rw [hctx] at h
      cases h
    obtain ⟨j, hdecode, hj, -⟩ := everyByteIsExactlyOneInstruction s.cfg s.ctx b bytes hctx
    rw [hdecode] at h
    cases h
    exact hj

/-! ### The control state -/

/-- The row's control state, for every instruction that is well-formed in the state it runs in. -/
theorem exec_control {i : Instr} {s t : State} (hi : i.wellFormed s.cfg s.ctx = true) (h : exec i s = .next t)
    (hhung : t.hung = false) : t.control ∈ s.controlAfter i := by
  cases i
  case eraseChips =>
    obtain ⟨io, -, rfl⟩ | ⟨io, -, rfl⟩ := exec_eraseChips_next h
    · simp [State.controlAfter]
    · cases hhung
  case fieldReadStart b =>
    obtain ⟨hcontrol, -⟩ := State.control_of_isHost hi
    obtain ⟨hcnt, rfl⟩ | ⟨hcnt, rfl⟩ := exec_fieldReadStart_next h
    · rw [State.controlAfter, if_neg hcnt]
      simp [hcontrol]
    · simp [State.controlAfter, hcnt]
  case fieldReadLength b =>
    obtain ⟨hcontrol, -⟩ := State.control_of_isHost hi
    obtain ⟨hcnt, rfl⟩ | ⟨hcnt, hok, rfl⟩ | ⟨hcnt, hok, rfl⟩ := exec_fieldReadLength_next h
    · rw [State.controlAfter, if_neg hcnt]
      simp [hcontrol]
    · simp [State.controlAfter, hcnt, hok, State.startRead_eq]
    · simp [State.controlAfter, hcnt, hok]
  case fieldWriteStart b =>
    obtain ⟨hcontrol, -⟩ := State.control_of_isHost hi
    obtain ⟨hcnt, rfl⟩ | ⟨hcnt, hok, rfl⟩ | ⟨hcnt, hok, rfl⟩ := exec_fieldWriteStart_next h
    · rw [State.controlAfter, if_neg hcnt]
      simp [hcontrol]
    · simp [State.controlAfter, hcnt, hok]
    · simp [State.controlAfter, hcnt, hok]
  case fieldErasePosLen b =>
    obtain ⟨hcontrol, -⟩ := State.control_of_isHost hi
    obtain ⟨hcnt, rfl⟩ | ⟨hcnt, io, bs, rfl⟩ | ⟨io, rfl⟩ := exec_fieldErasePosLen_next h
    · rw [State.controlAfter, if_neg hcnt]
      simp [hcontrol]
    · simp [State.controlAfter, hcnt]
    · cases hhung
  case maskByte b =>
    by_cases hb : b.toNat ≤ 15
    · rw [exec_maskByte_of_le hb] at h
      obtain rfl := Host.Outcome.next.inj h
      simp [State.controlAfter]
    · rw [exec_maskByte_of_not_le hb] at h
      obtain rfl := Host.Outcome.next.inj h
      simp [State.controlAfter]
  case chunkBodyByte b =>
    obtain ⟨hcontrol, bytes, hbody⟩ := State.control_of_isBody hi
    obtain ⟨hlen, rfl⟩ | ⟨io, rfl⟩ | ⟨hlen, hverify, io, bs, rfl⟩ | ⟨io, rfl⟩ := exec_chunkBodyByte_next h
    · simp [State.controlAfter, hcontrol, Nat.not_le.mpr hlen]
    · simp [State.controlAfter, hcontrol]
      split <;> simp
    · simp [State.controlAfter, hlen, hverify]
    · cases hhung
  case computerReadOK =>
    obtain ⟨hcontrol, -⟩ := State.control_of_isHost hi
    obtain ⟨hend, rfl⟩ | ⟨hend, rfl⟩ := exec_computerReadOK_next h
    · rw [State.controlAfter, if_pos hend]
      simp
    · rw [State.controlAfter, if_neg hend]
      simp [hcontrol]
  case computerWriteMore =>
    obtain ⟨hcontrol, -⟩ := State.control_of_isHost hi
    obtain ⟨hfits, rfl⟩ | ⟨hfits, rfl⟩ := exec_computerWriteMore_next h
    · simp [State.controlAfter, hfits, hcontrol]
    · simp [State.controlAfter, hfits]
  case readAckOther b =>
    obtain rfl := Host.Outcome.next.inj h
    have hctx : s.ctx.isHost .readingChips = true := by simp_all [Instr.wellFormed]
    exact List.mem_singleton.mpr (State.control_of_isHost hctx).1
  case writeCtlOther b =>
    obtain rfl := Host.Outcome.next.inj h
    have hctx : s.ctx.isHost .writingChips = true := by simp_all [Instr.wellFormed]
    exact List.mem_singleton.mpr (State.control_of_isHost hctx).1
  case jcUnlock1 | jcResetF0 | jcUnlock2 | jcSoftwareId | jcProgram | jcEraseSetup | jcBypassEnter | jcResetF0Cmd |
      jcProgramData | jcEraseUnlock1 | jcEraseUnlock2 | jcChipErase | jcSectorErase | jcSectorEraseMore |
      jcBypassProgram | jcBypassReset1 | jcBypassReset2 | jcOther =>
    obtain ⟨io, rfl⟩ := exec_flash_session h
    exact List.mem_singleton.mpr rfl
  all_goals
    obtain rfl := Host.Outcome.next.inj h
    exact List.mem_singleton.mpr rfl

/-- The control states a row can leave do not depend on the bytes still in RX. -/
theorem State.controlAfter_withRx (s : State) (rx : List Byte) (i : Instr) :
    (s.withRx rx).controlAfter i = s.controlAfter i := by
  cases i
  all_goals rfl

/-- Settles O8: the byte decodes to a well-formed instruction, whose row's control state is `exec_control`. -/
theorem controlStateFollowsTransitionTable : Obligations.ControlStateFollowsTransitionTable := by
  intro s t b rest i hready hdecode h hhung
  have hi : i.wellFormed s.cfg s.ctx = true := State.wellFormed_of_decode hdecode
  rw [← s.controlAfter_withRx rest]
  exact exec_control (s := s.withRx rest) hi h hhung

/-! ### The session (10_state.md R22, R24) -/

theorem State.SessionOk.body_eq_none {s : State} (hs : s.SessionOk) (hhung : s.hung = false)
    (hcontrol : s.control ≠ .writingChips) : s.body = none := by
  cases hbody : s.body with
  | none => rfl
  | some bytes => exact absurd ((hs hhung).2.2.1 bytes hbody).1 hcontrol

/-- Outside a read and a write body only the field counter is bounded. -/
theorem State.sessionOk_of_fields {t : State} (hbody : t.body = none) (hread : t.control ≠ .readingChips)
    (hcnt : t.control ∈ [ControlState.readingChipsReadStartPos, ControlState.readingChipsReadLength,
      ControlState.writingChipsReadingStartPos] → t.cnt.toNat < 4)
    (herase : t.control = .erasePortionReadingPosLength → t.cnt.toNat < 8) : t.SessionOk :=
  fun _ => ⟨hcnt, herase, by simp [hbody], fun h => absurd h hread⟩

/-- An idle session without a body is in its ranges. -/
theorem State.sessionOk_of_idle {t : State} (hbody : t.body = none) (hcontrol : t.control = .waitingForCommand) :
    t.SessionOk :=
  State.sessionOk_of_fields hbody (by simp [hcontrol]) (by simp [hcontrol]) (by simp [hcontrol])

/-- Nothing is said of the session a hung step leaves. -/
theorem State.sessionOk_of_hung {t : State} (hhung : t.hung = true) : t.SessionOk :=
  fun h => by rw [hhung] at h; cases h

theorem toNat_cnt_succ {n : BitVec 4} {m : Nat} (hlt : n.toNat < m) (hm : m < 16) (hne : n + 1 ≠ BitVec.ofNat 4 m) :
    (n + 1).toNat < m := by
  have hsucc : (n + 1).toNat = (n.toNat + 1) % 16 := BitVec.toNat_add n 1
  have hne' : (n + 1).toNat ≠ m := fun h =>
    hne (BitVec.eq_of_toNat_eq (by rw [h, BitVec.toNat_ofNat, Nat.mod_eq_of_lt hm]))
  omega

/-- The cursors an accepted read request sets (41_protocol_dispatcher.md R221). -/
theorem readCursors_ok {pos len m : Nat} (hpos : pos < 2 ^ 32) (hlen : len < 2 ^ 32) (hne : len ≠ 0)
    (hmod : len % 1024 = 0) (hle : pos + len ≤ 4 * m) :
    (chunkOf pos).toNat < (chunkOf (pos + len)).toNat ∧ (chunkOf (pos + len)).toNat * chunkWords ≤ m := by
  simp only [chunkOf, chunkBytes, chunkWords, BitVec.toNat_ofNat]
  omega

/-- An instruction that is well-formed where it runs keeps the session in its ranges, or leaves the block hung. -/
theorem exec_sessionOk {i : Instr} {s t : State} (hi : i.wellFormed s.cfg s.ctx = true) (hs : s.SessionOk)
    (hhung : s.hung = false) (h : exec i s = .next t) : t.SessionOk := by
  obtain ⟨hcnt4, hcnt8, hbodyOk, hreadOk⟩ := hs hhung
  have hnone : s.control ≠ .writingChips → s.body = none := hs.body_eq_none hhung
  cases i
  case eraseChips =>
    obtain ⟨hcontrol, -⟩ := State.control_of_isHost hi
    obtain ⟨io, -, rfl⟩ | ⟨io, -, rfl⟩ := exec_eraseChips_next h
    · exact State.sessionOk_of_idle (hnone (by simp [hcontrol])) rfl
    · exact State.sessionOk_of_hung rfl
  case fieldReadStart b =>
    obtain ⟨hcontrol, -⟩ := State.control_of_isHost hi
    have hbody := hnone (by simp [hcontrol])
    obtain ⟨hcnt, rfl⟩ | ⟨hcnt, rfl⟩ := exec_fieldReadStart_next h
    · exact State.sessionOk_of_fields hbody (by simp [hcontrol])
        (fun _ => toNat_cnt_succ (hcnt4 (by simp [hcontrol])) (by omega) (mt (cnt_succ_eq_four _).mp hcnt))
        (by simp [hcontrol])
    · exact State.sessionOk_of_fields hbody (by simp) (by simp) (by simp)
  case fieldReadLength b =>
    obtain ⟨hcontrol, -⟩ := State.control_of_isHost hi
    have hbody := hnone (by simp [hcontrol])
    obtain ⟨hcnt, rfl⟩ | ⟨hcnt, hok, rfl⟩ | ⟨hcnt, hok, rfl⟩ := exec_fieldReadLength_next h
    · exact State.sessionOk_of_fields hbody (by simp [hcontrol])
        (fun _ => toNat_cnt_succ (hcnt4 (by simp [hcontrol])) (by omega) (mt (cnt_succ_eq_four _).mp hcnt))
        (by simp [hcontrol])
    · obtain ⟨hne, hmod, -, hle⟩ := (State.readRequestOk_iff _).mp hok
      have hcursors := readCursors_ok (s.takeLenByte b).pos.isLt (s.takeLenByte b).len.isLt
        (fun h0 => hne (BitVec.eq_of_toNat_eq h0)) hmod hle
      rw [State.startRead_eq]
      refine fun _ => ⟨by simp, by simp, by simp [hbody], fun _ => ?_⟩
      simpa using hcursors
    · exact State.sessionOk_of_idle hbody rfl
  case fieldWriteStart b =>
    obtain ⟨hcontrol, -⟩ := State.control_of_isHost hi
    have hbody := hnone (by simp [hcontrol])
    obtain ⟨hcnt, rfl⟩ | ⟨hcnt, hok, rfl⟩ | ⟨hcnt, hok, rfl⟩ := exec_fieldWriteStart_next h
    · exact State.sessionOk_of_fields hbody (by simp [hcontrol])
        (fun _ => toNat_cnt_succ (hcnt4 (by simp [hcontrol])) (by omega) (mt (cnt_succ_eq_four _).mp hcnt))
        (by simp [hcontrol])
    · exact State.sessionOk_of_fields hbody (by simp) (by simp) (by simp)
    · exact State.sessionOk_of_idle hbody rfl
  case fieldErasePosLen b =>
    obtain ⟨hcontrol, -⟩ := State.control_of_isHost hi
    have hbody : (s.takeEraseByte b).body = none := by rw [State.takeEraseByte_body, hnone (by simp [hcontrol])]
    obtain ⟨hcnt, rfl⟩ | ⟨hcnt, io, bs, rfl⟩ | ⟨io, rfl⟩ := exec_fieldErasePosLen_next h
    · refine State.sessionOk_of_fields hbody (by simp [hcontrol]) (by simp [hcontrol]) (fun _ => ?_)
      rw [State.takeEraseByte_cnt]
      exact toNat_cnt_succ (hcnt8 hcontrol) (by omega) (mt (cnt_succ_eq_eight _).mp hcnt)
    · exact State.sessionOk_of_idle hbody rfl
    · exact State.sessionOk_of_hung rfl
  case maskByte b =>
    obtain ⟨hcontrol, -⟩ := State.control_of_isHost hi
    have hbody := hnone (by simp [hcontrol])
    by_cases hb : b.toNat ≤ 15
    · rw [exec_maskByte_of_le hb] at h
      obtain rfl := Host.Outcome.next.inj h
      exact State.sessionOk_of_idle hbody rfl
    · rw [exec_maskByte_of_not_le hb] at h
      obtain rfl := Host.Outcome.next.inj h
      exact State.sessionOk_of_idle hbody rfl
  case chunkBodyByte b =>
    obtain ⟨hcontrol, bytes, hbody⟩ := State.control_of_isBody hi
    obtain ⟨hlen, rfl⟩ | ⟨io, rfl⟩ | ⟨hlen, hverify, io, bs, rfl⟩ | ⟨io, rfl⟩ := exec_chunkBodyByte_next h
    · refine fun _ => ⟨by simp [hcontrol], by simp [hcontrol], ?_, by simp [hcontrol]⟩
      rintro _ ⟨⟩
      refine ⟨hcontrol, ?_, (hbodyOk bytes hbody).2.2⟩
      simp only [List.length_append, List.length_singleton, chunkBytes]
      omega
    · exact State.sessionOk_of_fields rfl (by simp [hcontrol]) (by simp [hcontrol]) (by simp [hcontrol])
    · exact State.sessionOk_of_idle rfl rfl
    · exact State.sessionOk_of_hung rfl
  case computerReadOK =>
    obtain ⟨hcontrol, -⟩ := State.control_of_isHost hi
    have hbody := hnone (by simp [hcontrol])
    obtain ⟨hend, rfl⟩ | ⟨hend, rfl⟩ := exec_computerReadOK_next h
    · exact State.sessionOk_of_idle hbody rfl
    · refine fun _ => ⟨by simp [hcontrol], by simp [hcontrol], by simp [hbody], fun _ => ?_⟩
      have hmax := (hreadOk hcontrol).2
      simpa using ⟨Nat.lt_of_not_le hend, hmax⟩
  case computerWriteMore =>
    obtain ⟨hcontrol, hbody⟩ := State.control_of_isHost hi
    obtain ⟨hfits, rfl⟩ | ⟨hfits, rfl⟩ := exec_computerWriteMore_next h
    · refine fun _ => ⟨by simp [hcontrol], by simp [hcontrol], ?_, by simp [hcontrol]⟩
      rintro bytes ⟨⟩
      exact ⟨hcontrol, by simp [chunkBytes], hfits⟩
    · exact State.sessionOk_of_idle (hbody rfl) rfl
  case computerWriteFinish | computerWriteCancel =>
    obtain ⟨-, hbody⟩ := State.control_of_isHost hi
    obtain rfl := Host.Outcome.next.inj h
    exact State.sessionOk_of_idle (hbody rfl) rfl
  case readAckOther b | writeCtlOther b =>
    obtain rfl := Host.Outcome.next.inj h
    exact hs
  case jcUnlock1 | jcResetF0 | jcUnlock2 | jcSoftwareId | jcProgram | jcEraseSetup | jcBypassEnter | jcResetF0Cmd |
      jcProgramData | jcEraseUnlock1 | jcEraseUnlock2 | jcChipErase | jcSectorErase | jcSectorEraseMore |
      jcBypassProgram | jcBypassReset1 | jcBypassReset2 | jcOther =>
    obtain ⟨io, rfl⟩ := exec_flash_session h
    exact hs
  case readChips | readChipsAt | writeChips | writeChipsAt | erasePortion | setChipMask | enterBootloader =>
    obtain ⟨hcontrol, -⟩ := State.control_of_isHost hi
    have hbody := hnone (by simp [hcontrol])
    obtain rfl := Host.Outcome.next.inj h
    exact State.sessionOk_of_fields hbody (by simp) (by simp) (by simp)
  case unassigned0A | unassignedDefault =>
    have hctx : s.ctx.isHost .waitingForCommand = true := by simp_all [Instr.wellFormed]
    obtain ⟨hcontrol, -⟩ := State.control_of_isHost hctx
    have hbody := hnone (by simp [hcontrol])
    obtain rfl := Host.Outcome.next.inj h
    exact State.sessionOk_of_idle hbody rfl
  case electricalTest | identify =>
    obtain ⟨hcontrol, -⟩ := State.control_of_isHost hi
    have hbody := hnone (by simp [hcontrol])
    obtain rfl := Host.Outcome.next.inj h
    exact State.sessionOk_of_idle (by simpa using hbody) (by simp)
  all_goals
    obtain ⟨hcontrol, -⟩ := State.control_of_isHost hi
    have hbody := hnone (by simp [hcontrol])
    obtain rfl := Host.Outcome.next.inj h
    exact State.sessionOk_of_idle hbody rfl

/-! ### The chips (10_state.md R42; 42_chip_model.md R282) -/

/-- Every socket is in a state the spec allows. -/
def Io.Ok (cfg : Config) (io : Io) : Prop := ∀ l : Lane, (io.chips.get l).Ok cfg

/-- A commit leaves the address registers. -/
theorem Chip.commit_ok {cfg : Config} (hcap : ∀ f, 0 < cfg.cap f) {c : Chip} (h : c.Ok cfg) (l : Lane) (a : Word)
    (d : Byte) : (c.commit cfg l a d).Ok cfg := by
  obtain ⟨hlegal, haddr, hlatch⟩ := h
  obtain ⟨-, -, -, -, -, -, -, haddr', -, hlatch', -, -⟩ := c.commit_frame cfg l a d
  exact ⟨Chip.commit_legal hcap hlegal l a d, haddr' ▸ haddr, hlatch' ▸ hlatch⟩

/-- A refresh leaves the address registers. -/
theorem Chip.refresh_ok {cfg : Config} {c : Chip} (h : c.Ok cfg) : c.refresh.Ok cfg := by
  obtain ⟨hlegal, haddr, hlatch⟩ := h
  obtain ⟨-, -, -, -, -, -, -, haddr', -, hlatch', -, -⟩ := c.refresh_frame
  exact ⟨Chip.refresh_legal hlegal, haddr' ▸ haddr, hlatch' ▸ hlatch⟩

theorem Chip.writeCycle_ok {cfg : Config} (hcap : ∀ f, 0 < cfg.cap f) {c : Chip} (h : c.Ok cfg) (l : Lane) (a : Word)
    (d : Byte) : (c.writeCycle cfg l (cfg.busAddr a) d).Ok cfg := by
  have hlatched : Chip.Ok cfg
      { c with addr := cfg.busAddr a, din := none, addressLatch := cfg.busAddr a, dataLatch := d,
               windowDriven := true } := ⟨h.1, cfg.busAddr_lt a, cfg.busAddr_lt a⟩
  rw [Chip.writeCycle_eq]
  split
  · exact Chip.commit_ok hcap hlatched l _ d
  · exact hlatched

theorem Chip.readCycle_ok {cfg : Config} {c : Chip} (h : c.Ok cfg) (a : Word) : (c.readCycle (cfg.busAddr a)).Ok cfg :=
  Chip.refresh_ok (c := { c with addr := cfg.busAddr a }) ⟨h.1, cfg.busAddr_lt a, h.2.2⟩

/-- A reply changes no chip. -/
theorem Io.Ok.tx {cfg : Config} {io : Io} (h : io.Ok cfg) (bs : List Byte) : (io.tx bs).Ok cfg := h

theorem Io.memWrite_ok {cfg : Config} (hcap : ∀ f, 0 < cfg.cap f) (io : Io) (a d : Word) (h : io.Ok cfg) :
    (io.memWrite cfg a d).Ok cfg := fun l => by
  rw [Io.memWrite_get]
  exact Chip.writeCycle_ok hcap (h l) l a _

theorem Io.memRead_ok {cfg : Config} (io : Io) (a : Word) (h : io.Ok cfg) : (io.memRead cfg a).2.Ok cfg := fun l => by
  rw [Io.memRead_get]
  exact Chip.readCycle_ok (h l) a

/-- What an electrical test leaves of a chip keeps its address registers, and is a legal state. -/
theorem Chip.afterElectricalTest_ok {cfg : Config} {c : Chip} (h : c.Ok cfg) (t : ChipTouch) :
    (c.afterElectricalTest cfg t).Ok cfg := by
  obtain hsame | ⟨htouched, hlegal⟩ := c.afterElectricalTest_cases cfg t
  · rwa [hsame]
  · refine ⟨hlegal, ?_⟩
    rw [htouched]
    exact h.2

theorem touchChips_ok {cfg : Config} {chips : Lanes Chip} (h : ∀ l : Lane, (chips.get l).Ok cfg) (r : ElectricalResult)
    (l : Lane) : ((touchChips cfg chips r).get l).Ok cfg := by
  unfold touchChips
  split
  · exact h l
  · rw [Lanes.get_map]
    exact Chip.afterElectricalTest_ok (h l) _

/-- The close of a write window commits what was latched, or changes nothing. -/
theorem Chip.closeWindow_ok {cfg : Config} (hcap : ∀ f, 0 < cfg.cap f) {l : Lane} {c c' : Chip} (h : c.Ok cfg)
    (he : c.closeWindow cfg l = .ok c') : c'.Ok cfg := by
  unfold Chip.closeWindow at he
  split at he
  · cases he
    exact h
  · split at he
    · cases he
      exact Chip.commit_ok hcap h l _ _
    · cases he

/-- The opening of a write window latches the present address level. -/
theorem Chip.windowEdge_ok {cfg : Config} (hcap : ∀ f, 0 < cfg.cap f) {l : Lane} {c c' c'' : Chip} (h : c'.Ok cfg)
    (he : c.windowEdge cfg l c' = .ok c'') : c''.Ok cfg := by
  obtain ⟨hlegal, haddr, hlatch⟩ := id h
  unfold Chip.windowEdge at he
  split at he
  · split at he
    · cases he
    · cases he
      exact ⟨hlegal, haddr, haddr⟩
  · split at he
    · exact Chip.closeWindow_ok hcap h he
    · cases he
      exact h

/-- An accepted pin event keeps a socket in a state the spec allows: an event of the address lines sets `ADDR_LINES` bits,
and a window latches the level that stands. -/
theorem Chip.onPin_ok {cfg : Config} (hcap : ∀ f, 0 < cfg.cap f) {l : Lane} {c c' : Chip} (h : c.Ok cfg) {e : PinEvent}
    (he : c.onPin cfg l e = .ok c') : c'.Ok cfg := by
  obtain ⟨hlegal, haddr, hlatch⟩ := id h
  cases e with
  | cs x =>
    simp only [Chip.onPin] at he
    split at he
    · cases he
      exact h
    · exact Chip.windowEdge_ok hcap (c' := { c with csAsserted := x }) ⟨hlegal, haddr, hlatch⟩ he
  | we x =>
    simp only [Chip.onPin] at he
    split at he
    · cases he
      exact h
    · exact Chip.windowEdge_ok hcap (c' := { c with weAsserted := x }) ⟨hlegal, haddr, hlatch⟩ he
  | oe x =>
    simp only [Chip.onPin] at he
    split at he
    · cases he
      exact h
    · split at he
      · cases he
      · split at he
        all_goals cases he
        · exact Chip.refresh_ok (c := { c with oeAsserted := x }) ⟨hlegal, haddr, hlatch⟩
        · exact ⟨hlegal, haddr, hlatch⟩
  | addr a =>
    cases he
    exact ⟨hlegal, cfg.busAddr_lt _, hlatch⟩
  | addrLine n v =>
    cases he
    exact ⟨hlegal, cfg.busAddr_lt _, hlatch⟩
  | data k v =>
    simp only [Chip.onPin] at he
    repeat' split at he
    all_goals
      cases he
      exact ⟨hlegal, haddr, hlatch⟩

/-- Going on after a call of the sequencer keeps what the call and the rest of the step keep. -/
theorem State.afterSeq_keeps {α : Type} {P : Io → Prop} {s t : State} {r : SeqResult α}
    {k : α → State → Host.Outcome State Fault Refusal} (hr : r.Holds P) (h : s.afterSeq r k = .next t)
    (hk : ∀ x s', P s'.io → k x s' = .next t → P t.io) : P t.io := by
  obtain ⟨x, io, rfl, hnext⟩ | ⟨io, rfl, rfl⟩ := State.afterSeq_next h
  · exact hk x { s with io := io } hr hnext
  · exact hr

theorem State.erasePortion_chipsOk {s t : State} (hcap : ∀ f, 0 < s.cfg.cap f) (hio : s.io.Ok s.cfg)
    (h : s.erasePortion = .next t) : t.io.Ok s.cfg := by
  have herase := seqEraseSectors_keeps (Io.memWrite_ok hcap) Io.memRead_ok s.family s.chipMask
    (io := (s.io.tx [s.cfg.reply.erasePortionOK]).flush) hio (sharedAddr s.pos) (sharedAddr s.len)
  rw [State.erasePortion_eq] at h
  refine State.afterSeq_keeps herase h fun ok s' hs' hnext => ?_
  split at hnext
  all_goals
    obtain rfl := Host.Outcome.next.inj hnext
    exact hs'

theorem State.verifyChunk_chipsOk {cfg : Config} {s : State} (hio : s.io.Ok cfg) (hcfg : s.cfg = cfg) (words : List Word) :
    (s.verifyChunk words).io.Ok cfg := by
  subst hcfg
  by_cases hverify : s.verify = true
  case neg =>
    rw [State.verifyChunk_of_not_verify hverify]
    exact hio
  case pos =>
    have hback := burstRead_keeps Io.memRead_ok 256 hio (s.cursor * 256)
    rw [State.verifyChunk_of_verify hverify, State.judge]
    split
    · exact hback.tx _
    · exact hback.tx _

/-- Programming a chunk keeps what every bus cycle keeps (41_protocol_dispatcher.md R233). -/
theorem State.programChunk_keeps {P : Io → Prop} {s : State} (hw : ∀ io a d, P io → P (io.memWrite s.cfg a d))
    (hr : ∀ io a, P io → P (io.memRead s.cfg a).2) (hio : P s.io) (words : List Word) :
    (s.programChunk words).Holds P := by
  unfold State.programChunk
  split
  · exact seqWriteAll_keeps hw hr s.family words hio _
  · exact seqWriteSome_keeps hw hr s.family s.chipMask words hio _

/-- A finished body: programming, then verifying (41_protocol_dispatcher.md R233 to R235). -/
theorem State.completeBody_eq (s : State) (bytes : List Byte) :
    s.completeBody bytes =
      ({ s with body := none } : State).afterSeq (s.programChunk (packWords bytes))
        (fun _ s => .next (s.verifyChunk (packWords bytes))) := rfl

theorem State.completeBody_chipsOk {s t : State} {bytes : List Byte} (hcap : ∀ f, 0 < s.cfg.cap f) (hio : s.io.Ok s.cfg)
    (h : s.completeBody bytes = .next t) : t.io.Ok s.cfg := by
  have hprogram := State.programChunk_keeps (Io.memWrite_ok hcap) Io.memRead_ok hio (packWords bytes)
  rw [State.completeBody_eq] at h
  obtain ⟨_, io, hseq, hnext⟩ | ⟨io, hseq, rfl⟩ := State.afterSeq_next h
  all_goals rw [hseq] at hprogram
  · obtain rfl := Host.Outcome.next.inj hnext
    exact State.verifyChunk_chipsOk (s := { s with body := none, io := io }) hprogram rfl _
  · exact hprogram

/-- An instruction of the host keeps every socket in a state the spec allows: all it does to the chips is bus cycles, or an
electrical test. -/
theorem exec_chipsOk {i : Instr} {s t : State} (hi : i.wellFormed s.cfg s.ctx = true) (hcap : ∀ f, 0 < s.cfg.cap f)
    (hio : s.io.Ok s.cfg) (h : exec i s = .next t) : t.io.Ok s.cfg := by
  have hw := Io.memWrite_ok hcap
  have hr := Io.memRead_ok (cfg := s.cfg)
  have hburst := fun {io : Io} (hio : io.Ok s.cfg) (a : Word) => burstRead_keeps hr 256 hio a
  cases i
  case electricalTest =>
    obtain rfl := Host.Outcome.next.inj h
    exact touchChips_ok hio _
  case identify =>
    rw [exec_identify] at h
    obtain rfl := Host.Outcome.next.inj h
    exact seqIdentify_keeps hw hr s.family (io := s.io.tx [s.cfg.reply.ok]) hio
  case eraseChips =>
    rw [exec_eraseChips] at h
    refine State.afterSeq_keeps (seqEraseAll_keeps hw hr s.family s.chipMask hio) h fun _ s' hs' hnext => ?_
    obtain rfl := Host.Outcome.next.inj hnext
    exact hs'
  case fieldReadStart b =>
    obtain ⟨-, rfl⟩ | ⟨-, rfl⟩ := exec_fieldReadStart_next h
    all_goals exact hio
  case fieldReadLength b =>
    obtain ⟨-, rfl⟩ | ⟨-, -, rfl⟩ | ⟨-, -, rfl⟩ := exec_fieldReadLength_next h
    · exact hio
    · rw [State.startRead_eq, State.sendChunk_io]
      exact (hburst (hio.tx [s.cfg.reply.readOK]) _).tx _
    · exact hio
  case fieldWriteStart b =>
    obtain ⟨-, rfl⟩ | ⟨-, -, rfl⟩ | ⟨-, -, rfl⟩ := exec_fieldWriteStart_next h
    all_goals exact hio
  case fieldErasePosLen b =>
    have htaken : (s.takeEraseByte b).io.Ok (s.takeEraseByte b).cfg := by simpa using hio
    rw [exec_fieldErasePosLen] at h
    split at h
    · split at h
      · simpa using State.erasePortion_chipsOk (by simpa using hcap) htaken h
      · obtain rfl := Host.Outcome.next.inj h
        simpa using htaken.tx _
    · obtain rfl := Host.Outcome.next.inj h
      simpa using htaken
  case maskByte b =>
    by_cases hb : b.toNat ≤ 15
    · rw [exec_maskByte_of_le hb] at h
      obtain rfl := Host.Outcome.next.inj h
      exact hio
    · rw [exec_maskByte_of_not_le hb] at h
      obtain rfl := Host.Outcome.next.inj h
      exact hio
  case chunkBodyByte b =>
    rw [exec_chunkBodyByte] at h
    split at h
    · obtain rfl := Host.Outcome.next.inj h
      exact hio
    · exact State.completeBody_chipsOk hcap hio h
  case computerReadOK =>
    obtain ⟨-, rfl⟩ | ⟨-, rfl⟩ := exec_computerReadOK_next h
    · exact hio
    · rw [State.sendChunk_io]
      exact (hburst (hio.tx [s.cfg.reply.readMoreData]) _).tx _
  case computerWriteMore =>
    obtain ⟨-, rfl⟩ | ⟨-, rfl⟩ := exec_computerWriteMore_next h
    all_goals exact hio
  case jcOther => cases hi
  case jcUnlock1 | jcResetF0 | jcUnlock2 | jcSoftwareId | jcProgram | jcEraseSetup | jcBypassEnter | jcResetF0Cmd |
      jcProgramData | jcEraseUnlock1 | jcEraseUnlock2 | jcChipErase | jcSectorErase | jcSectorEraseMore |
      jcBypassProgram | jcBypassReset1 | jcBypassReset2 => cases hi
  all_goals
    obtain rfl := Host.Outcome.next.inj h
    exact hio

/-! ### Every step -/

/-- No instruction changes the parameters. -/
theorem exec_cfg {i : Instr} {s t : State} (h : exec i s = .next t) : t.cfg = s.cfg :=
  (configRegistersHaveOwnCommands i s t h).1

/-- Settles O3: one case per kind of step (`step_cases`). A power cycle resets the session and keeps the chips, a pin event
keeps the session and an allowed state of each chip, a poll changes nothing, and an instruction is well-formed where it
runs. -/
theorem everyStepKeepsInvariant : Obligations.EveryStepKeepsInvariant := by
  rintro s t ⟨hcfg, hsession, hchips⟩ h
  have hcap := Config.cap_pos hcfg
  obtain ⟨rest, -, rfl⟩ | ⟨e, rest, chips, -, -, hpin, rfl⟩ | ⟨-, -, -, rfl⟩ | ⟨i, rest, -, hhung, hdecode, hexec⟩ :=
    step_cases h
  · exact ⟨hcfg, State.sessionOk_of_idle rfl rfl, hchips⟩
  · exact ⟨hcfg, hsession, fun l => Chip.onPin_ok hcap (hchips l) (pinAll_ok hpin l)⟩
  · exact ⟨hcfg, hsession, hchips⟩
  · have hi : i.wellFormed s.cfg s.ctx = true := State.wellFormed_of_decode hdecode
    have hcfg' : t.cfg = s.cfg := exec_cfg (s := s.withRx rest) hexec
    have hchips' := exec_chipsOk (s := s.withRx rest) hi hcap hchips hexec
    refine ⟨hcfg' ▸ hcfg, exec_sessionOk (s := s.withRx rest) hi hsession hhung hexec, fun l => ?_⟩
    rw [hcfg']
    exact hchips' l

end Sys2Proof.Machine
end

section
/-! The flash command rows: a row is a change of the chip on its lane; the rows run together are the commit function; and what
each row leaves of the chip and of its content. -/

namespace Sys2Proof.Machine

/-! ### A row changes the chip on its lane -/

theorem State.onLane_of_empty {s : State} {l : Lane} (h : (s.io.chips.get l).fitted = false) (f : Chip → Chip) :
    s.onLane l f = s := if_neg (by simp [h])

theorem State.onLane_of_fitted {s : State} {l : Lane} (h : ¬ (s.io.chips.get l).fitted = false) (f : Chip → Chip) :
    s.onLane l f = s.withChip l (f (s.io.chips.get l)) := if_pos (by simpa using h)

/-- Two changes that agree on the chip of the lane are one. -/
theorem State.onLane_congr {s : State} {l : Lane} {f g : Chip → Chip} (h : f (s.io.chips.get l) = g (s.io.chips.get l)) :
    s.onLane l f = s.onLane l g := by
  unfold State.onLane
  rw [h]

theorem State.withChip_self (s : State) (l : Lane) : s.withChip l (s.io.chips.get l) = s := by
  have hset : s.io.chips.set (s.io.chips.get l) l = s.io.chips := by fin_cases l <;> rfl
  rw [State.withChip, hset]

/-- A lane's byte runs the row it decodes to in the chip's own state, which is the commit of the byte
(42_chip_model.md R270 to R282). -/
theorem exec_decodeLane (s : State) (l : Lane) (a : Word) (d : Byte) :
    exec (decodeLane s.cfg l (s.io.chips.get l).family (s.io.chips.get l).algState (s.io.chips.get l).batchOpen a d) s =
      .next (s.onLane l (fun c => c.commit s.cfg l a d)) := by
  cases hst : (s.io.chips.get l).algState
  all_goals
    unfold decodeLane
    dsimp only
    repeat' split
  all_goals
    refine congrArg Host.Outcome.next (State.onLane_congr ?_)
    simp_all only [Chip.commit, Chip.unmatched, reduceIte, reduceCtorEq, and_true, true_and]
  case waitingForCommand.isFalse.isFalse.isFalse.isTrue hbypass =>
    obtain ⟨rfl, hmatch, hfamily⟩ := hbypass
    rw [if_pos (hfamily ▸ hmatch), if_pos (hfamily ▸ hmatch)]

/-- Settles O44: by `exec_decodeLane`; in an empty socket the change is none. -/
theorem laneByteRunsItsRow : Obligations.LaneByteRunsItsRow := by
  intro s l a d c
  rw [exec_decodeLane]
  by_cases hfitted : c.fitted = false
  case pos => rw [State.onLane_of_empty hfitted, if_neg (by simp [hfitted]), State.withChip_self]
  case neg => rw [State.onLane_of_fitted hfitted, if_pos (by simpa using hfitted)]

/-! ### What each row leaves -/

theorem exec_jcUnlock1 (l : Lane) (a : Word) (s : State) :
    exec (.jcUnlock1 l a) s = .next (s.onLane l fun c => if s.cfg.match1 c.family a then c.unlock1 else c.fallback) := rfl

theorem exec_jcUnlock2 (l : Lane) (a : Word) (s : State) :
    exec (.jcUnlock2 l a) s = .next (s.onLane l fun c => if s.cfg.match2 c.family a then c.unlock2 else c.fallback) := rfl

theorem exec_jcEraseUnlock1 (l : Lane) (a : Word) (s : State) :
    exec (.jcEraseUnlock1 l a) s =
      .next (s.onLane l fun c => if s.cfg.match1 c.family a then c.eraseUnlock1 else c.fallback) := rfl

theorem exec_jcEraseUnlock2 (l : Lane) (a : Word) (s : State) :
    exec (.jcEraseUnlock2 l a) s =
      .next (s.onLane l fun c => if s.cfg.match2 c.family a then c.eraseUnlock2 else c.fallback) := rfl

theorem exec_jcOther (l : Lane) (a : Word) (d : Byte) (s : State) :
    exec (.jcOther l a d) s = .next (s.onLane l Chip.unmatched) := rfl

theorem exec_jcSoftwareId (l : Lane) (a : Word) (s : State) :
    exec (.jcSoftwareId l a) s =
      .next (s.onLane l fun c => if s.cfg.match1 c.family a then c.enterSoftwareId else c.fallback) := rfl

theorem exec_jcProgram (l : Lane) (a : Word) (s : State) :
    exec (.jcProgram l a) s =
      .next (s.onLane l fun c => if s.cfg.match1 c.family a then c.expectData else c.fallback) := rfl

theorem exec_jcEraseSetup (l : Lane) (a : Word) (s : State) :
    exec (.jcEraseSetup l a) s =
      .next (s.onLane l fun c => if s.cfg.match1 c.family a then c.setupErase else c.fallback) := rfl

theorem exec_jcBypassEnter (l : Lane) (a : Word) (s : State) :
    exec (.jcBypassEnter l a) s =
      .next (s.onLane l fun c =>
        if s.cfg.match1 c.family a ∧ c.family = .familyB then c.enterBypass else c.fallback) := rfl

theorem exec_jcResetF0Cmd (l : Lane) (a : Word) (s : State) :
    exec (.jcResetF0Cmd l a) s = .next (s.onLane l Chip.resetF0) := rfl

theorem exec_jcResetF0 (l : Lane) (a : Word) (s : State) :
    exec (.jcResetF0 l a) s = .next (s.onLane l Chip.resetF0) := rfl

theorem exec_jcProgramData (l : Lane) (a : Word) (d : Byte) (s : State) :
    exec (.jcProgramData l a d) s = .next (s.onLane l fun c => c.program s.cfg a d) := rfl

theorem exec_jcChipErase (l : Lane) (a : Word) (s : State) :
    exec (.jcChipErase l a) s =
      .next (s.onLane l fun c => if s.cfg.match1 c.family a then c.eraseChip else c.fallback) := rfl

theorem exec_jcSectorErase (l : Lane) (a : Word) (s : State) :
    exec (.jcSectorErase l a) s = .next (s.onLane l fun c => c.eraseSector s.cfg a) := rfl

theorem exec_jcSectorEraseMore (l : Lane) (a : Word) (s : State) :
    exec (.jcSectorEraseMore l a) s =
      .next (s.onLane l fun c =>
        if c.family = .familyB ∧ c.batchOpen then c.eraseSectorMore s.cfg a else c.abortStatus) := rfl

theorem exec_jcBypassProgram (l : Lane) (a : Word) (s : State) :
    exec (.jcBypassProgram l a) s = .next (s.onLane l Chip.expectData) := rfl

theorem exec_jcBypassReset1 (l : Lane) (a : Word) (s : State) :
    exec (.jcBypassReset1 l a) s = .next (s.onLane l Chip.bypassReset1) := rfl

theorem exec_jcBypassReset2 (l : Lane) (a : Word) (s : State) :
    exec (.jcBypassReset2 l a) s = .next (s.onLane l Chip.bypassReset2) := rfl

/-- A row that moves the grammar on or falls back sets `algorithmState` and nothing else. -/
theorem Chip.move_or_fallback (c : Chip) (p : Prop) [Decidable p] (st : AlgState) :
    (if p then { c with algState := st } else c.fallback) = { c with algState := if p then st else c.idle } := by
  split <;> rfl

/-- An unmatched write falls back, ending a status state. -/
theorem Chip.unmatched_eq (c : Chip) :
    c.unmatched =
      if c.algState = .readingStatus then { c with busy := .reads 0, batchOpen := false, algState := c.idle }
      else { c with algState := c.idle } := rfl

/-- Settles O39: each row is a move or a fall-back of the chip on the lane. -/
theorem unlockRowsMoveOrFallBack : Obligations.UnlockRowsMoveOrFallBack := by
  intro l a d s c
  rw [exec_jcUnlock1, exec_jcUnlock2, exec_jcEraseUnlock1, exec_jcEraseUnlock2, exec_jcOther]
  by_cases hfitted : c.fitted = false
  case pos =>
    rw [if_pos hfitted]
    simp only [State.onLane_of_empty hfitted, and_self]
  case neg =>
    rw [if_neg hfitted]
    simp only [State.onLane_of_fitted hfitted]
    refine ⟨?_, ?_, ?_, ?_, by rw [Chip.unmatched_eq]⟩
    all_goals exact congrArg (fun c' => Host.Outcome.next (s.withChip l c')) (c.move_or_fallback _ _)

/-- Settles O40: each row takes its command, or the chip falls back. -/
theorem commandRowsTakeTheirCommand : Obligations.CommandRowsTakeTheirCommand := by
  intro l a s c
  rw [exec_jcSoftwareId, exec_jcProgram, exec_jcEraseSetup, exec_jcBypassEnter, exec_jcResetF0Cmd, exec_jcResetF0]
  by_cases hfitted : c.fitted = false
  case pos =>
    rw [if_pos hfitted]
    simp only [State.onLane_of_empty hfitted, and_self]
  case neg =>
    rw [if_neg hfitted]
    simp only [State.onLane_of_fitted hfitted]
    refine ⟨rfl, ?_, ?_, rfl, rfl, rfl⟩
    all_goals exact congrArg (fun c' => Host.Outcome.next (s.withChip l c')) (c.move_or_fallback _ _)

/-- The base state of a chip that is not in bypass mode (10_state.md R48). -/
theorem Chip.idle_of_not_bypass {c : Chip} (h : c.bypassActive = false) :
    c.idle = if c.softwareIdActive then .softwareId else .reading := if_neg (by simp [h])

/-- Settles O43: the second half of the exit clears the flag before it falls back. -/
theorem bypassRowsProgramAndExit : Obligations.BypassRowsProgramAndExit := by
  intro l a s c
  rw [exec_jcBypassProgram, exec_jcBypassReset1, exec_jcBypassReset2]
  by_cases hfitted : c.fitted = false
  case pos =>
    rw [if_pos hfitted]
    simp only [State.onLane_of_empty hfitted, and_self]
  case neg =>
    rw [if_neg hfitted]
    simp only [State.onLane_of_fitted hfitted]
    refine ⟨rfl, rfl, ?_⟩
    rw [Chip.bypassReset2, Chip.fallback, Chip.idle_of_not_bypass rfl]

/-! ### Content after a data cycle and after an erase -/

/-- A draw is the first one listed, 0 where none is (42_chip_model.md R293). -/
theorem Chip.busyDraw_eq (c : Chip) : c.busyDraw = (c.draws.headD (.reads 0), c.draws.tail) := by
  unfold Chip.busyDraw
  cases c.draws <;> rfl

theorem Chip.startBusy_eq (c : Chip) :
    c.startBusy = { c with busy := c.draws.headD (.reads 0), draws := c.draws.tail, toggle := false } := by
  rw [Chip.startBusy, Chip.busyDraw_eq]

theorem Chip.program_eq (cfg : Config) (c : Chip) (a : Word) (d : Byte) :
    c.program cfg a d =
      { c with content := c.content.write (c.index cfg a) (c.content.read (c.index cfg a) &&& d)
               busy := c.draws.headD (.reads 0), draws := c.draws.tail, toggle := false, algState := .readingStatus } := by
  rw [Chip.program, Chip.startBusy_eq]

theorem Chip.eraseChip_eq (c : Chip) :
    c.eraseChip =
      { c with content := Memory.erased, busy := c.draws.headD (.reads 0), draws := c.draws.tail, toggle := false,
               batchOpen := false, algState := .readingStatus } := by
  rw [Chip.eraseChip, Chip.startBusy_eq]

theorem Chip.eraseSector_eq (cfg : Config) (c : Chip) (a : Word) :
    c.eraseSector cfg a =
      { c with content := (c.eraseSectorOf cfg a).content, busy := c.draws.headD (.reads 0), draws := c.draws.tail,
               toggle := false, batchOpen := c.family == .familyB, algState := .readingStatus } := by
  rw [Chip.eraseSector, Chip.startBusy_eq, Chip.eraseSectorOf]

theorem Chip.eraseSectorMore_eq (cfg : Config) (c : Chip) (a : Word) :
    c.eraseSectorMore cfg a =
      { c with content := (c.eraseSectorOf cfg a).content, busy := c.draws.headD (.reads 0), draws := c.draws.tail,
               toggle := false } := by
  rw [Chip.eraseSectorMore, Chip.startBusy_eq, Chip.eraseSectorOf]

/-- The content after the program commit (42_chip_model.md R274). -/
theorem Chip.read_program {cfg : Config} {c : Chip} (h : c.legal cfg) (a : Word) (d : Byte) (x : Nat) :
    (c.program cfg a d).content.read x = if x = c.index cfg a then c.content.read x &&& d else c.content.read x := by
  obtain ⟨-, -, -, -, hsorted, -⟩ := h
  rw [Chip.program_eq, Memory.read_write _ hsorted]
  by_cases hx : x = c.index cfg a
  · simp [hx]
  · rw [if_neg hx, if_neg (Ne.symm hx)]

/-- The content after the erase of a sector (42_chip_model.md R278). -/
theorem Chip.read_eraseSectorOf (cfg : Config) (c : Chip) (a : Word) (x : Nat) :
    (c.eraseSectorOf cfg a).content.read x =
      if (sectorOf c.family (c.index cfg a)).1 ≤ x ∧ x < (sectorOf c.family (c.index cfg a)).2 then 0xFF
      else c.content.read x :=
  Memory.read_eraseRange c.content _ _ x

/-- Settles O41, by `Chip.read_program`. -/
theorem programDataAndsIntoContent : Obligations.ProgramDataAndsIntoContent := by
  intro l a d s c hlegal
  rw [exec_jcProgramData]
  by_cases hfitted : c.fitted = false
  case pos => rw [if_pos hfitted, State.onLane_of_empty hfitted]
  case neg =>
    rw [if_neg hfitted, State.onLane_of_fitted hfitted]
    exact ⟨(c.program s.cfg a d).content, by rw [Chip.program_eq], Chip.read_program hlegal a d⟩

/-- Settles O42, by `Chip.read_eraseSectorOf`; the erased array is blank everywhere. -/
theorem eraseRowsEraseTheirTarget : Obligations.EraseRowsEraseTheirTarget := by
  intro l a s c r
  rw [exec_jcChipErase, exec_jcSectorErase, exec_jcSectorEraseMore]
  by_cases hfitted : c.fitted = false
  case pos =>
    rw [if_pos hfitted]
    simp only [State.onLane_of_empty hfitted, and_self]
  case neg =>
    rw [if_neg hfitted]
    simp only [State.onLane_of_fitted hfitted]
    refine ⟨⟨Memory.erased, fun _ => rfl, by rw [Chip.eraseChip_eq]; rfl⟩,
      (c.eraseSectorOf s.cfg a).content, Chip.read_eraseSectorOf s.cfg c a, by rw [Chip.eraseSector_eq],
      by rw [Chip.eraseSectorMore_eq]; rfl⟩

end Sys2Proof.Machine
end

section
/-! The lemmas of the chip model (42_chip_model.md sections 3 and 4): the sector map, runs of zero bytes, unlock rejection and
the laws of the content. -/

namespace Sys2Proof.Machine

/-! ### The sector map (42_chip_model.md R278) -/

theorem sectorOf_familyA (i : Nat) : sectorOf .familyA i = (i - i % 0x1000, i - i % 0x1000 + 0x1000) := rfl

/-- The sector of a FamilyB index above the boot area is its 64 KB block. -/
theorem sectorOf_familyB_block {i : Nat} (h : 0x10000 ≤ i) :
    sectorOf .familyB i = (i - i % 0x10000, i - i % 0x10000 + 0x10000) := by
  rw [sectorOf, if_neg (by omega), if_neg (by omega), if_neg (by omega), if_neg (by omega)]

/-- The sector of a FamilyB index in the boot area is one of the four sub-sectors. -/
theorem sectorOf_familyB_boot {i : Nat} (h : i < 0x10000) :
    sectorOf .familyB i ∈ [(0, 0x4000), (0x4000, 0x6000), (0x6000, 0x8000), (0x8000, 0x10000)] := by
  unfold sectorOf
  dsimp only
  repeat' split
  all_goals simp

/-- Two indices share a sector exactly where one lies in the other's. -/
theorem sectorOf_eq_iff (f : Family) (i j : Nat) :
    ((sectorOf f i).1 ≤ j ∧ j < (sectorOf f i).2) ↔ sectorOf f j = sectorOf f i := by
  refine ⟨fun h => ?_, fun h => h ▸ mem_sectorOf f j⟩
  cases f with
  | familyA =>
    simp only [sectorOf_familyA, Prod.mk.injEq] at h ⊢
    omega
  | familyB =>
    unfold sectorOf at h ⊢
    dsimp only at h ⊢
    split_ifs at h ⊢
    all_goals simp only [Prod.mk.injEq] at h ⊢ <;> omega

/-- Settles O50, family by family. -/
theorem sectorsPartitionTheArray : Obligations.SectorsPartitionTheArray := by
  intro f i j
  obtain ⟨hlo, hhi⟩ := mem_sectorOf f i
  refine ⟨hlo, hhi, sectorOf_eq_iff f i j, ?blocksA, ?boot, ?blocksB⟩
  case blocksA =>
    rintro rfl
    rw [sectorOf_familyA]
    omega
  case boot =>
    rintro rfl
    exact sectorOf_familyB_boot
  case blocksB =>
    rintro rfl hi
    rw [sectorOf_familyB_block hi]
    omega

/-! ### The commit, one equation per state of the grammar (42_chip_model.md R271 to R281) -/

/-- In read mode and in software-ID mode a byte unlocks, exits or falls back (42_chip_model.md R271). -/
theorem Chip.commit_of_base {c : Chip} (h : c.algState = .reading ∨ c.algState = .softwareId) (cfg : Config) (l : Lane)
    (a : Word) (d : Byte) :
    c.commit cfg l a d =
      if cfg.match1 c.family a ∧ d = cfg.k1 l then c.unlock1 else if d = 0xF0 then c.resetF0 else c.fallback := by
  obtain h | h := h
  all_goals rw [Chip.commit, h]

/-- After a first key a byte is the second key or falls back (42_chip_model.md R272). -/
theorem Chip.commit_of_unlocking {c : Chip} (h : c.algState = .unlocking) (cfg : Config) (l : Lane) (a : Word) (d : Byte) :
    c.commit cfg l a d = if cfg.match2 c.family a ∧ d = cfg.k2 l then c.unlock2 else c.fallback := by
  rw [Chip.commit, h]

/-- After an unlock a byte is one of the commands at the first unlock address, exits or falls back (42_chip_model.md R273). -/
theorem Chip.commit_of_waiting {c : Chip} (h : c.algState = .waitingForCommand) (cfg : Config) (l : Lane) (a : Word)
    (d : Byte) :
    c.commit cfg l a d =
      if d = 0x90 ∧ cfg.match1 c.family a then c.enterSoftwareId
      else if d = 0xA0 ∧ cfg.match1 c.family a then c.expectData
      else if d = 0x80 ∧ cfg.match1 c.family a then c.setupErase
      else if d = 0x20 ∧ cfg.match1 c.family a ∧ c.family = .familyB then c.enterBypass
      else if d = 0xF0 then c.resetF0
      else c.fallback := by
  rw [Chip.commit, h]

theorem Chip.commit_of_programming {c : Chip} (h : c.algState = .programmingByte) (cfg : Config) (l : Lane) (a : Word)
    (d : Byte) : c.commit cfg l a d = c.program cfg a d := by
  rw [Chip.commit, h]

theorem Chip.commit_of_eraseUnlocking1 {c : Chip} (h : c.algState = .eraseUnlocking1) (cfg : Config) (l : Lane) (a : Word)
    (d : Byte) :
    c.commit cfg l a d = if cfg.match1 c.family a ∧ d = cfg.k1 l then c.eraseUnlock1 else c.fallback := by
  rw [Chip.commit, h]

theorem Chip.commit_of_eraseUnlocking2 {c : Chip} (h : c.algState = .eraseUnlocking2) (cfg : Config) (l : Lane) (a : Word)
    (d : Byte) :
    c.commit cfg l a d = if cfg.match2 c.family a ∧ d = cfg.k2 l then c.eraseUnlock2 else c.fallback := by
  rw [Chip.commit, h]

theorem Chip.commit_of_eraseWaiting {c : Chip} (h : c.algState = .eraseWaitingForCommand) (cfg : Config) (l : Lane)
    (a : Word) (d : Byte) :
    c.commit cfg l a d =
      if d = 0x10 ∧ cfg.match1 c.family a then c.eraseChip else if d = 0x30 then c.eraseSector cfg a else c.fallback := by
  rw [Chip.commit, h]

/-- In status a byte is a further sector of a running batch, or ends the status state (42_chip_model.md R279). -/
theorem Chip.commit_of_status {c : Chip} (h : c.algState = .readingStatus) (cfg : Config) (l : Lane) (a : Word) (d : Byte) :
    c.commit cfg l a d =
      if c.family = .familyB ∧ c.batchOpen ∧ d = 0x30 then c.eraseSectorMore cfg a else c.abortStatus := by
  rw [Chip.commit, h]

theorem Chip.commit_of_bypass {c : Chip} (h : c.algState = .unlockBypass) (cfg : Config) (l : Lane) (a : Word) (d : Byte) :
    c.commit cfg l a d =
      if d = 0xA0 then c.expectData else if d = 0x90 then c.bypassReset1 else c.fallback := by
  rw [Chip.commit, h]

theorem Chip.commit_of_bypassReset {c : Chip} (h : c.algState = .bypassReset) (cfg : Config) (l : Lane) (a : Word)
    (d : Byte) : c.commit cfg l a d = if d = 0x00 then c.bypassReset2 else c.fallback := by
  rw [Chip.commit, h]

/-! ### Runs of writes (42_chip_model.md R283, R286) -/

/-- A chip at its base state is unchanged by a zero byte, which is no key. -/
theorem Chip.commit_zero {cfg : Config} {l : Lane} (hkey : cfg.k1 l ≠ 0x00) {c : Chip}
    (h : c.algState = .reading ∨ c.algState = .softwareId) (hidle : c.algState = c.idle) (a : Word) :
    c.commit cfg l a 0x00 = c := by
  rw [Chip.commit_of_base h, if_neg (fun hk => hkey hk.2.symm), if_neg (by decide), Chip.fallback, ← hidle]

/-- Settles O46, by induction on the run: each byte leaves the chip as it was. -/
theorem zeroWritesChangeNothing : Obligations.ZeroWritesChangeNothing := by
  intro cfg l c addrs hkey h hidle
  induction addrs with
  | nil => rfl
  | cons a addrs ih => rw [List.foldl_cons, Chip.commit_zero hkey h hidle, ih]

/-- The base state of a chip that is not in bypass mode is read mode or software-ID mode. -/
theorem Chip.idle_base {c : Chip} (h : c.bypassActive = false) : c.idle = .reading ∨ c.idle = .softwareId := by
  rw [Chip.idle_of_not_bypass h]
  split
  · exact .inr rfl
  · exact .inl rfl

/-- What unlock rejection says of a chip after a run of writes whose last one is `last`. -/
structure Chip.Locked (cfg : Config) (l : Lane) (c c' : Chip) (last : Option (Word × Byte)) : Prop where
  content : c'.content = c.content
  busy : c'.busy = c.busy
  bypass : c'.bypassActive = false
  family : c'.family = c.family
  state : c'.algState = .reading ∨ c'.algState = .softwareId ∨
    (c'.algState = .unlocking ∧ ∃ x, last = some x ∧ cfg.match1 c.family x.1 = true ∧ x.2 = cfg.k1 l)

/-- One more write keeps a chip locked, unless it is the second key right after a first. -/
theorem Chip.Locked.commit {cfg : Config} {l : Lane} {c c' : Chip} {last : Option (Word × Byte)}
    (h : Chip.Locked cfg l c c' last) (w : Word × Byte)
    (hpair : ∀ x, last = some x →
      ¬ (cfg.match1 c.family x.1 = true ∧ x.2 = cfg.k1 l ∧ cfg.match2 c.family w.1 = true ∧ w.2 = cfg.k2 l)) :
    Chip.Locked cfg l c (c'.commit cfg l w.1 w.2) (some w) := by
  have hfall : Chip.Locked cfg l c c'.fallback (some w) :=
    ⟨h.content, h.busy, h.bypass, h.family, (Chip.idle_base h.bypass).imp_right Or.inl⟩
  have hbase : c'.algState = .reading ∨ c'.algState = .softwareId →
      Chip.Locked cfg l c (c'.commit cfg l w.1 w.2) (some w) := fun hst => by
    rw [Chip.commit_of_base hst]
    split
    case isTrue hkey =>
      rw [h.family] at hkey
      exact ⟨h.content, h.busy, h.bypass, h.family, .inr (.inr ⟨rfl, w, rfl, hkey⟩)⟩
    case isFalse =>
      split
      · exact ⟨h.content, h.busy, h.bypass, h.family, .inl rfl⟩
      · exact hfall
  obtain hst | hst | ⟨hst, x, hlast, hmatch, hkey⟩ := h.state
  · exact hbase (.inl hst)
  · exact hbase (.inr hst)
  · rw [Chip.commit_of_unlocking hst, h.family, if_neg fun hk => hpair x hlast ⟨hmatch, hkey, hk⟩]
    exact hfall

/-- Settles O47, by induction on the run, the last write first: every write keeps the chip locked. -/
theorem withoutTheKeyPairNothingUnlocks : Obligations.WithoutTheKeyPairNothingUnlocks := by
  intro cfg l c writes hbase hbypass hpair
  have hlocked : Chip.Locked cfg l c (writes.foldl (fun c w => c.commit cfg l w.1 w.2) c) writes.getLast? := by
    induction writes using List.reverseRecOn with
    | nil => exact ⟨rfl, rfl, hbypass, rfl, hbase.imp_right Or.inl⟩
    | append_singleton ws w ih =>
      have hshort := ih fun pre post x y hws => hpair pre (post ++ [w]) x y (by simp [hws])
      rw [List.foldl_append, List.getLast?_concat]
      refine hshort.commit w fun x hlast => ?_
      obtain ⟨pre, rfl⟩ := List.getLast?_eq_some_iff.mp hlast
      exact hpair pre [] x w (by simp)
  exact ⟨hlocked.content, hlocked.busy, hlocked.bypass, hlocked.state⟩

/-! ### The laws of the content (42_chip_model.md R284) -/

/-- In canonical form the cells are the addresses that do not read blank. -/
theorem Memory.mem_iff_read {cap : Nat} {m : Memory} (h : m.wf cap) (c : Host.Cell) :
    c ∈ m ↔ m.read c.1 = c.2 ∧ c.2 ≠ blankByte := by
  refine ⟨fun hc => ⟨Memory.read_of_mem h hc, (h.2 c hc).1⟩, fun ⟨hread, hne⟩ => ?_⟩
  by_contra hc
  by_cases hlisted : ∃ d ∈ m, d.1 = c.1
  · obtain ⟨d, hd, hkey⟩ := hlisted
    have hval := Memory.read_of_mem h hd
    rw [hkey, hread] at hval
    exact hc (Prod.ext hkey hval.symm ▸ hd)
  · push Not at hlisted
    exact hne (hread ▸ Memory.read_of_not_mem m c.1 hlisted)

/-- In canonical form equal contents are equal lists. -/
theorem Memory.ext_read {cap cap' : Nat} {m m' : Memory} (h : m.wf cap) (h' : m'.wf cap') (hread : ∀ x, m.read x = m'.read x) :
    m = m' := by
  refine List.Pairwise.eq_of_mem_iff h.1 h'.1 fun c => ?_
  rw [Memory.mem_iff_read h, Memory.mem_iff_read h', hread]

theorem Memory.eraseRange_eraseRange (m : Memory) (lo hi : Nat) :
    (m.eraseRange lo hi).eraseRange lo hi = m.eraseRange lo hi := by
  simp [Memory.eraseRange, List.filter_filter]

/-- Outside the three states that program or erase, a commit leaves the content (42_chip_model.md R284). -/
theorem Chip.commit_content {c : Chip} {d : Byte} (hprogram : c.algState ≠ .programmingByte)
    (herase : c.algState ≠ .eraseWaitingForCommand)
    (hmore : ¬ (c.algState = .readingStatus ∧ c.family = .familyB ∧ c.batchOpen = true ∧ d = 0x30)) (cfg : Config)
    (l : Lane) (a : Word) : (c.commit cfg l a d).content = c.content := by
  cases hst : c.algState
  case programmingByte => exact absurd hst hprogram
  case eraseWaitingForCommand => exact absurd hst herase
  case readingStatus =>
    rw [Chip.commit_of_status hst, if_neg fun h => hmore ⟨hst, h⟩]
    rfl
  all_goals
    rw [Chip.commit, hst]
    dsimp only
    repeat' split
  all_goals rfl

@[simp] theorem Chip.eraseSectorOf_index (cfg : Config) (c : Chip) (a : Word) :
    (c.eraseSectorOf cfg a).index cfg a = c.index cfg a := rfl

theorem Chip.eraseSectorOf_legal {cfg : Config} {c : Chip} (h : c.legal cfg) (a : Word) :
    (c.eraseSectorOf cfg a).legal cfg := by
  obtain ⟨h1, h2, h3, h4, h5⟩ := h
  exact ⟨h1, h2, h3, h4, Memory.eraseRange_wf h5 _ _⟩

/-- Programming keeps the content in canonical form. -/
theorem Chip.program_wf {cfg : Config} {c : Chip} (h : Memory.wf (cfg.cap c.family) c.content)
    (hcap : 0 < cfg.cap c.family) (a : Word) (d : Byte) :
    Memory.wf (cfg.cap c.family) (c.program cfg a d).content := by
  rw [Chip.program_eq]
  exact Memory.write_wf h (Nat.mod_lt _ hcap) _

/-- Settles O48: the contents are in canonical form, so each law is one about reads. -/
theorem contentChangesOnlyByProgramAndErase : Obligations.ContentChangesOnlyByProgramAndErase := by
  intro cfg l c a d hlegal hcap
  obtain ⟨-, -, -, -, hwf⟩ := id hlegal
  refine ⟨?only, ?programTwice, ?eraseTwice, ?programAfterErase⟩
  case only =>
    intro hne
    by_contra hother
    simp only [not_or] at hother
    obtain ⟨hprogram, herase, hmore⟩ := hother
    exact hne (Chip.commit_content hprogram herase hmore cfg l a)
  case programTwice =>
    have hwf' := Chip.program_wf hwf hcap a d
    refine Memory.ext_read (Chip.program_wf (c := c.program cfg a d) hwf' hcap a d) hwf' fun x => ?_
    have hagain : ((c.program cfg a d).program cfg a d).content =
        (c.program cfg a d).content.write (c.index cfg a) ((c.program cfg a d).content.read (c.index cfg a) &&& d) := rfl
    rw [hagain, Memory.read_write _ hwf'.1]
    by_cases hx : c.index cfg a = x
    · subst hx
      rw [if_pos rfl, Chip.read_program hlegal, if_pos rfl, BitVec.and_assoc, BitVec.and_self]
    · rw [if_neg hx]
  case eraseTwice =>
    exact Memory.eraseRange_eraseRange c.content _ _
  case programAfterErase =>
    rw [Chip.read_program (Chip.eraseSectorOf_legal hlegal a), Chip.eraseSectorOf_index, if_pos rfl,
      Chip.read_eraseSectorOf, if_pos (mem_sectorOf c.family _)]
    exact BitVec.allOnes_and

/-! ### Pin events (42_chip_model.md R262 to R266; 20_memory.md R65) -/

/-- A list of pin events at one socket, in order. -/
def Chip.onPins (cfg : Config) (l : Lane) (c : Chip) : List PinEvent → Except Fault Chip
  | [] => .ok c
  | e :: es =>
    match c.onPin cfg l e with
    | .ok c' => c'.onPins cfg l es
    | .error f => .error f

theorem Chip.onPins_cons {cfg : Config} {l : Lane} {c c' : Chip} {e : PinEvent} (h : c.onPin cfg l e = .ok c')
    (es : List PinEvent) : c.onPins cfg l (e :: es) = c'.onPins cfg l es := by
  rw [Chip.onPins, h]

theorem Chip.onPins_cons_ok {cfg : Config} {l : Lane} {c c' : Chip} {e : PinEvent} {es : List PinEvent}
    (h : c.onPins cfg l (e :: es) = .ok c') : ∃ c1, c.onPin cfg l e = .ok c1 ∧ c1.onPins cfg l es = .ok c' := by
  rw [Chip.onPins] at h
  split at h
  case h_1 c1 hc1 => exact ⟨c1, hc1, h⟩
  case h_2 => cases h

/-- Events that every socket accepts are accepted by the four. -/
theorem pinEvents_of_lanes {cfg : Config} {es : List PinEvent} {chips chips' : Lanes Chip}
    (h : ∀ l, (chips.get l).onPins cfg l es = .ok (chips'.get l)) : pinEvents cfg chips es = .ok chips' := by
  induction es generalizing chips with
  | nil => exact congrArg Except.ok (Lanes.ext_get fun l => Except.ok.inj (h l))
  | cons e es ih =>
    obtain ⟨c0, hpin0, hrest0⟩ := Chip.onPins_cons_ok (h 0)
    obtain ⟨c1, hpin1, hrest1⟩ := Chip.onPins_cons_ok (h 1)
    obtain ⟨c2, hpin2, hrest2⟩ := Chip.onPins_cons_ok (h 2)
    obtain ⟨c3, hpin3, hrest3⟩ := Chip.onPins_cons_ok (h 3)
    have hall : pinAll cfg chips e = .ok { l0 := c0, l1 := c1, l2 := c2, l3 := c3 } := by
      simp only [Lanes.get] at hpin0 hpin1 hpin2 hpin3
      simp only [pinAll, hpin0, hpin1, hpin2, hpin3]
    rw [pinEvents, hall]
    refine ih fun l => ?_
    fin_cases l
    · exact hrest0
    · exact hrest1
    · exact hrest2
    · exact hrest3

/-- The chip with other levels of CS, WE and the data lines. -/
def Chip.withLines (c : Chip) (cs we : Bool) (din : Option Byte) : Chip :=
  { c with csAsserted := cs, weAsserted := we, din := din }

theorem Chip.withLines_of_eq {c : Chip} {cs we : Bool} {din : Option Byte} (hcs : c.csAsserted = cs)
    (hwe : c.weAsserted = we) (hdin : c.din = din) : c.withLines cs we din = c := by
  subst hcs hwe hdin
  rfl

/-- A commit does not look at the control lines nor at the data lines. -/
theorem Chip.commit_withLines (cfg : Config) (l : Lane) (c : Chip) (cs we : Bool) (din : Option Byte) (a : Word) (d : Byte) :
    (c.withLines cs we din).commit cfg l a d = (c.commit cfg l a d).withLines cs we din := by
  unfold Chip.commit Chip.withLines
  obtain ⟨_, _, _, _, _, _, _, _, _, _, _, _, st, _, _, _, _, _, _, _, _⟩ := c
  cases st
  case programmingByte => rfl
  all_goals
    dsimp only
    split_ifs
    all_goals rfl

/-- A refresh does not look at the control lines. -/
theorem Chip.refresh_withLines (c : Chip) (cs oe : Bool) :
    ({ c with csAsserted := cs, oeAsserted := oe } : Chip).refresh =
      { c.refresh with csAsserted := cs, oeAsserted := oe } := by
  unfold Chip.refresh Chip.refreshStatus
  dsimp only
  split_ifs
  · split
    · split <;> rfl
    · rfl
  · rfl

/-- Four events of the data lines, outside a write window: the lane's own one sets its level. -/
theorem Chip.onPins_data {cfg : Config} {l : Lane} {c : Chip} (h : c.windowOpen = false) (v : Lane → Option Byte)
    (es : List PinEvent) :
    c.onPins cfg l (.data 0 (v 0) :: .data 1 (v 1) :: .data 2 (v 2) :: .data 3 (v 3) :: es) =
      ({ c with din := v l } : Chip).onPins cfg l es := by
  have hclosed : ∀ c' : Chip, c'.csAsserted = c.csAsserted → c'.weAsserted = c.weAsserted → c'.windowOpen = false :=
    fun c' hcs hwe => by rw [← h, Chip.windowOpen, Chip.windowOpen, hcs, hwe]
  fin_cases l
  all_goals simp [Chip.onPins, Chip.onPin, hclosed]

/-- The write window opens and latches the address and the byte (42_chip_model.md R263). -/
theorem Chip.onPins_open {cfg : Config} {l : Lane} {c : Chip} (h : c.LinesIdle) {d : Byte} (hdin : c.din = some d)
    (es : List PinEvent) :
    c.onPins cfg l (.cs true :: .we true :: es) =
      (({ c with addressLatch := c.addr, dataLatch := d, windowDriven := true } : Chip).withLines true true
        (some d)).onPins cfg l es := by
  obtain ⟨hcs, hoe, hwe⟩ := h
  simp [Chip.onPins, Chip.onPin, Chip.windowEdge, Chip.windowOpen, Chip.openWindow, Chip.withLines, hcs, hoe, hwe, hdin]

/-- A window that has latched a byte closes with one commit, where there is a chip (42_chip_model.md R265). -/
theorem Chip.onPins_close {cfg : Config} {l : Lane} {c : Chip} (hdriven : c.windowDriven = true) (din : Option Byte)
    (es : List PinEvent) :
    (c.withLines true true din).onPins cfg l (.we false :: .cs false :: es) =
      ((if c.fitted then c.commit cfg l c.addressLatch c.dataLatch else c).withLines false false din).onPins cfg l es := by
  have hwe : (c.withLines true true din).onPin cfg l (.we false) =
      .ok ((if c.fitted then c.commit cfg l c.addressLatch c.dataLatch else c).withLines true false din) := by
    change (c.withLines true false din).closeWindow cfg l = _
    by_cases hfitted : c.fitted = true
    · rw [Chip.closeWindow, if_neg (by simp [Chip.withLines, hfitted]), if_pos (by exact hdriven), if_pos hfitted,
        Chip.commit_withLines]
      rfl
    · rw [Chip.closeWindow, if_pos (by simp [Chip.withLines, hfitted]), if_neg hfitted]
  rw [Chip.onPins_cons hwe, Chip.onPins_cons rfl]
  rfl

/-- One write cycle at one socket, event by event. -/
theorem Chip.onPins_writeCycle (cfg : Config) (l : Lane) {c : Chip} (h : c.LinesIdle) (a d : Word) :
    c.onPins cfg l (writeCycleEvents a d) = .ok (c.writeCycle cfg l (cfg.busAddr a) (lane d l)) := by
  obtain ⟨hcs, hoe, hwe⟩ := id h
  let latched : Chip :=
    { c with addr := cfg.busAddr a, din := none, addressLatch := cfg.busAddr a, dataLatch := lane d l,
             windowDriven := true }
  have hdriven : ({ latched with din := some (lane d l) } : Chip) = latched.withLines false false (some (lane d l)) :=
    (Chip.withLines_of_eq (c := { latched with din := some (lane d l) }) hcs hwe rfl).symm
  have haddr : c.onPin cfg l (.addr a) = .ok { c with addr := cfg.busAddr a } := rfl
  rw [writeCycleEvents, Chip.onPins_cons haddr,
    Chip.onPins_data (by simp [Chip.windowOpen, hcs]) (fun k => some (lane d k)),
    Chip.onPins_open (by exact h) rfl, Chip.onPins_close rfl,
    Chip.onPins_data (by rfl) (fun _ => none), Chip.writeCycle_eq, Chip.onPins]
  refine congrArg Except.ok ?_
  by_cases hfitted : c.fitted = true
  · rw [if_pos (by exact hfitted), if_pos hfitted]
    obtain ⟨-, -, -, -, hcs', -, hwe', -, hdin', -⟩ := latched.commit_frame cfg l (cfg.busAddr a) (lane d l)
    change (({ latched with din := some (lane d l) } : Chip).commit cfg l (cfg.busAddr a) (lane d l)).withLines false false
      none = latched.commit cfg l (cfg.busAddr a) (lane d l)
    rw [hdriven, Chip.commit_withLines]
    exact Chip.withLines_of_eq (hcs'.trans hcs) (hwe'.trans hwe) hdin'
  · rw [if_neg (by exact hfitted), if_neg hfitted]
    exact Chip.withLines_of_eq (c := latched) hcs hwe rfl

/-- One read cycle at one socket, event by event, up to the sampling. -/
theorem Chip.onPins_readCycle (cfg : Config) (l : Lane) {c : Chip} (h : c.LinesIdle) (a : Word) :
    c.onPins cfg l (readCycleEvents a) =
      .ok { c.readCycle (cfg.busAddr a) with csAsserted := true, oeAsserted := true } := by
  obtain ⟨hcs, hoe, hwe⟩ := h
  rw [Chip.readCycle, ← Chip.refresh_withLines]
  simp [readCycleEvents, Chip.onPins, Chip.onPin, Chip.windowEdge, Chip.windowOpen, hcs, hoe, hwe]

/-- The end of a read cycle at one socket: the lines go back, and nothing else. -/
theorem Chip.onPins_readCycleEnd (cfg : Config) (l : Lane) {c : Chip} (h : c.LinesIdle) :
    ({ c with csAsserted := true, oeAsserted := true } : Chip).onPins cfg l readCycleEnd = .ok c := by
  obtain ⟨hcs, hoe, hwe⟩ := h
  have hback : ({ c with csAsserted := false, oeAsserted := false } : Chip) = c := by
    obtain ⟨_, _, _, _, _, _, _, _, _, _, _, _, _, _, _, _, _, _, _, _, _⟩ := c
    cases hcs
    cases hoe
    rfl
  simpa [readCycleEnd, Chip.onPins, Chip.onPin, Chip.windowEdge, Chip.windowOpen, hwe] using hback

theorem Chip.readCycle_linesIdle {c : Chip} (h : c.LinesIdle) (a : Word) : (c.readCycle a).LinesIdle := by
  obtain ⟨-, -, -, -, hcs, hoe, hwe, -⟩ := ({ c with addr := a } : Chip).refresh_frame
  exact ⟨hcs.trans h.1, hoe.trans h.2.1, hwe.trans h.2.2⟩

theorem Chip.readCycle_addr (c : Chip) (a : Word) : (c.readCycle a).addr = a := by
  obtain ⟨-, -, -, -, -, -, -, haddr, -⟩ := ({ c with addr := a } : Chip).refresh_frame
  exact haddr

/-- What a socket puts on its lane while CS and OE are asserted is the byte of the read cycle. -/
theorem Chip.sampled_readCycle (cfg : Config) (c : Chip) (a : Word) :
    ({ c.readCycle a with csAsserted := true, oeAsserted := true } : Chip).sampled
      (({ c.readCycle a with csAsserted := true, oeAsserted := true } : Chip).dout cfg) = c.readByte cfg a := by
  have hdout : ({ c.readCycle a with csAsserted := true, oeAsserted := true } : Chip).dout cfg =
      if c.fitted then (c.readCycle a).driven cfg a else .z := by
    rw [Chip.dout, Bool.and_true, Bool.and_true]
    change (if (c.readCycle a).fitted then (c.readCycle a).driven cfg (c.readCycle a).addr else .z) = _
    rw [Chip.readCycle_fitted, Chip.readCycle_addr]
  rw [hdout]
  rfl

/-- Settles O45: the events are taken socket by socket. -/
theorem pinEventsAmountToBusCycles : Obligations.PinEventsAmountToBusCycles := by
  intro cfg chips a d hidle
  let mid := chips.map fun _ c => { c.readCycle (cfg.busAddr a) with csAsserted := true, oeAsserted := true }
  refine ⟨pinEvents_of_lanes fun l => ?write, mid, pinEvents_of_lanes fun l => ?read, ?sampled,
    pinEvents_of_lanes fun l => ?lines⟩
  case write =>
    rw [Lanes.get_map]
    exact Chip.onPins_writeCycle cfg l (hidle l) a d
  case read =>
    rw [Lanes.get_map]
    exact Chip.onPins_readCycle cfg l (hidle l) a
  case sampled =>
    refine congrArg wordOf (Lanes.ext_get fun l => ?_)
    rw [Lanes.get_map, Lanes.get_map, Lanes.get_map]
    exact Chip.sampled_readCycle cfg _ _
  case lines =>
    rw [Lanes.get_map, Lanes.get_map]
    exact Chip.onPins_readCycleEnd cfg l (Chip.readCycle_linesIdle (hidle l) _)

end Sys2Proof.Machine
end

section
/-! The orders of bytes and lanes (00_scope.md R12; 20_memory.md R68; 10_state.md R23), the failure mask
(41_protocol_dispatcher.md R234), the drain of a write body (R230 to R232), and `writeSome` of all chips
(70_reset_and_hazards.md R371). -/

namespace Sys2Proof

/-! ### Packing and little-endian fields -/

theorem lane_pack (b0 b1 b2 b3 : Byte) :
    lane (pack b0 b1 b2 b3) 3 = b0 ∧ lane (pack b0 b1 b2 b3) 2 = b1 ∧ lane (pack b0 b1 b2 b3) 1 = b2 ∧
      lane (pack b0 b1 b2 b3) 0 = b3 := by
  simp [pack, Lanes.get]

/-- A word is the packing of its lanes. -/
theorem pack_lanes (w : Word) : pack (lane w 3) (lane w 2) (lane w 1) (lane w 0) = w := by
  apply word_ext
  intro l
  rw [pack, lane_wordOf]
  fin_cases l
  all_goals rfl

theorem packWords_unpackWords (ws : List Word) : packWords (unpackWords ws) = ws := by
  induction ws with
  | nil => rfl
  | cons w ws ih =>
    change pack (lane w 3) (lane w 2) (lane w 1) (lane w 0) :: packWords (unpackWords ws) = w :: ws
    rw [pack_lanes, ih]

theorem unpackWords_packWords (bytes : List Byte) (h : bytes.length % 4 = 0) : unpackWords (packWords bytes) = bytes := by
  induction bytes using packWords.induct with
  | case1 b0 b1 b2 b3 rest ih =>
    have hrest : rest.length % 4 = 0 := by
      simp only [List.length_cons] at h
      omega
    obtain ⟨h3, h2, h1, h0⟩ := lane_pack b0 b1 b2 b3
    change lane _ 3 :: lane _ 2 :: lane _ 1 :: lane _ 0 :: unpackWords (packWords rest) = _
    rw [h3, h2, h1, h0, ih hrest]
  | case2 bytes hshort =>
    match bytes with
    | [] => rfl
    | [_] | [_, _] | [_, _, _] => simp at h
    | b0 :: b1 :: b2 :: b3 :: rest => exact absurd rfl (hshort b0 b1 b2 b3 rest)

/-- Four bytes or-ed into a cleared accumulator, the first one least significant (10_state.md R23). -/
theorem accumulate_le32 (b0 b1 b2 b3 : Byte) :
    accumulate (accumulate (accumulate (accumulate 0 b0 0) b1 1) b2 2) b3 3 = le32 b0 b1 b2 b3 := by
  simp [accumulate, le32, wordOf]

/-- A byte or-ed in above the bits in use adds its positional value. -/
theorem toNat_or_shifted {x : Word} {n : Nat} (hx : x.toNat < 2 ^ n) (hn : n ≤ 24) (b : Byte) :
    (x ||| b.setWidth 32 <<< n).toNat = x.toNat + 2 ^ n * b.toNat := by
  have hfits : 2 ^ n * b.toNat < 2 ^ 32 :=
    calc 2 ^ n * b.toNat ≤ 2 ^ 24 * b.toNat := Nat.mul_le_mul_right _ (Nat.pow_le_pow_right (by omega) hn)
      _ < 2 ^ 32 := by have := b.isLt; omega
  have hb : b.toNat < 2 ^ 32 := b.isLt.trans (by norm_num)
  have hshift : (b.setWidth 32 <<< n).toNat = b.toNat <<< n := by
    rw [BitVec.toNat_shiftLeft, BitVec.toNat_setWidth, Nat.mod_eq_of_lt hb, Nat.shiftLeft_eq, Nat.mul_comm,
      Nat.mod_eq_of_lt hfits]
  rw [BitVec.toNat_or, hshift, Nat.or_comm, ← Nat.shiftLeft_add_eq_or_of_lt hx, Nat.shiftLeft_eq]
  ring

theorem toNat_le32 (b0 b1 b2 b3 : Byte) :
    (le32 b0 b1 b2 b3).toNat = b0.toNat + 256 * b1.toNat + 65536 * b2.toNat + 16777216 * b3.toNat := by
  have h0 := b0.isLt
  have h1 := b1.isLt
  have h2 := b2.isLt
  have hw0 : (b0.setWidth 32).toNat = b0.toNat := by
    rw [BitVec.toNat_setWidth]
    omega
  have hw1 := toNat_or_shifted (x := b0.setWidth 32) (n := 8) (by omega) (by omega) b1
  have hw2 := toNat_or_shifted (x := b0.setWidth 32 ||| b1.setWidth 32 <<< 8) (n := 16) (by omega) (by omega) b2
  have hw3 := toNat_or_shifted (x := b0.setWidth 32 ||| b1.setWidth 32 <<< 8 ||| b2.setWidth 32 <<< 16) (n := 24)
    (by omega) (by omega) b3
  rw [le32, wordOf, hw3, hw2, hw1, hw0]
  norm_num

end Sys2Proof

namespace Sys2Proof.Machine

/-- Settles O38: `pack` and `unpack` lane by lane, and each accumulator by `accumulate_le32`. -/
theorem linkByteOrders : Obligations.LinkByteOrders := by
  refine ⟨packWords_unpackWords, unpackWords_packWords, ?pos, ?len, ?erase, toNat_le32⟩
  case pos =>
    intro s b0 b1 b2 b3 hpos hcnt
    simp only [List.foldl, State.takePosByte_pos, State.takePosByte_cnt, hpos, hcnt]
    exact accumulate_le32 b0 b1 b2 b3
  case len =>
    intro s b0 b1 b2 b3 hlen hcnt
    simp only [List.foldl, State.takeLenByte_len, State.takeLenByte_cnt, hlen, hcnt]
    exact accumulate_le32 b0 b1 b2 b3
  case erase =>
    intro s b0 b1 b2 b3 b4 b5 b6 b7 hpos hlen hcnt
    simp only [List.foldl, State.takeEraseByte_eq, hpos, hlen, hcnt]
    exact ⟨accumulate_le32 b0 b1 b2 b3, accumulate_le32 b4 b5 b6 b7⟩

/-! ### The failure mask -/

/-- Bit `L` of the mask of a test is the test of lane `L`. -/
theorem getLsbD_maskOf (f : Lane → Bool) (l : Lane) : (maskOf f).getLsbD l.val = f l := by
  fin_cases l
  all_goals simp [maskOf]

/-- Settles O36, by induction on the two lists. -/
theorem failureMaskNamesMismatchingLanes : Obligations.FailureMaskNamesMismatchingLanes := by
  intro m back words l hlen
  induction back generalizing words with
  | nil => simp [failMask]
  | cons b bs ih =>
    obtain _ | ⟨w, ws⟩ := words
    · cases hlen
    have hrest := ih ws (by simpa using hlen)
    have hfirst : (wordMismatch m b w).getLsbD l.val = true ↔ m.getLsbD l.val = true ∧ lane b l ≠ lane w l := by
      rw [wordMismatch, getLsbD_maskOf]
      simp
    rw [failMask, BitVec.getLsbD_or, Bool.or_eq_true, hfirst, hrest]
    constructor
    · rintro (⟨hm, hne⟩ | ⟨hm, i, v, u, hv, hu, hne⟩)
      · exact ⟨hm, 0, b, w, rfl, rfl, hne⟩
      · exact ⟨hm, i + 1, v, u, hv, hu, hne⟩
    · rintro ⟨hm, i, v, u, hv, hu, hne⟩
      cases i with
      | zero =>
        cases hv
        cases hu
        exact .inl ⟨hm, hne⟩
      | succ i => exact .inr ⟨hm, i, v, u, hv, hu, hne⟩

/-! ### The drain of a write body -/

theorem run_succ_of_next {s t : State} (h : step s = .next t) (k : Nat) : core.run (k + 1) s = core.run k t := by
  have hstep : core.step s = .next t := h
  simp only [Host.Core.run, hstep]

theorem run_one (s : State) : core.run 1 s = step s := by
  have hstep : core.step s = step s := rfl
  cases h : step s
  all_goals
    rw [h] at hstep
    simp only [Host.Core.run, hstep]
    rfl

/-- Inside a body a byte is data, whatever its value. -/
theorem step_of_body {s : State} {b : Byte} {rest done : List Byte} (hhung : s.hung = false) (hbench : s.bench = [])
    (hcontrol : s.control = .writingChips) (hbody : s.body = some done) (hrx : s.rx = b :: rest) :
    step s = exec (.chunkBodyByte b) { s with rx := rest } := by
  refine step_of_ready ⟨hhung, hbench, by simp [hcontrol], hrx⟩ ?_
  rw [State.ctx, hcontrol, hbody, hrx]
  rfl

/-- The steps of a body from its first byte not yet drained to its last. -/
theorem run_body {todo : List Byte} (hne : todo ≠ []) {s : State} {rest done : List Byte} (hhung : s.hung = false)
    (hbench : s.bench = []) (hcontrol : s.control = .writingChips) (hbody : s.body = some done)
    (hrx : s.rx = todo ++ rest) (hlen : done.length + todo.length = 1024) :
    core.run todo.length s =
      State.completeBody { s with rx := rest, body := some ((done ++ todo).take 1023) } (done ++ todo) := by
  induction todo generalizing s done with
  | nil => exact absurd rfl hne
  | cons b todo ih =>
    have hstep := step_of_body hhung hbench hcontrol hbody hrx
    rw [exec_chunkBodyByte] at hstep
    simp only [hbody, Option.getD_some, List.length_append, List.length_singleton] at hstep
    rw [List.length_cons] at hlen ⊢
    cases todo with
    | nil =>
      have hdone : done.length = 1023 := by simpa using hlen
      rw [if_neg (by omega)] at hstep
      rw [List.length_nil, run_one, hstep, List.take_left' hdone, ← hbody]
      rfl
    | cons b' todo =>
      rw [List.length_cons] at hlen
      rw [if_pos (by omega)] at hstep
      rw [run_succ_of_next hstep]
      have hrest := ih (List.cons_ne_nil _ _) (s := { s with rx := b' :: todo ++ rest, body := some (done ++ [b]) })
        (done := done ++ [b]) hhung hbench hcontrol rfl rfl (by simp; omega)
      simpa using hrest

/-- Settles O35: the control byte opens the body, and `run_body` drains it. -/
theorem bodyPhaseDrainsExactly1024Bytes : Obligations.BodyPhaseDrainsExactly1024Bytes := by
  intro s body rest hhung hbench hcontrol hbody hfits hlen hrx
  have hdecode : decode s.cfg s.ctx s.rx = .ok (.computerWriteMore, body ++ rest) := by
    rw [State.ctx, hcontrol, hbody, hrx, decode_host_cons (by decide)]
    simp [decodeHost, decodeWriteCtl, Except.map]
  have hmore := step_of_ready ⟨hhung, hbench, by simp [hcontrol], hrx⟩ hdecode
  rw [exec_computerWriteMore, if_pos (by exact hfits)] at hmore
  have hne : body ≠ [] := by
    rintro rfl
    cases hlen
  have hdrain := run_body hne (done := [])
    (s := { s with rx := body ++ rest, io := s.io.tx [s.cfg.reply.writeOK], body := some [] }) hhung hbench hcontrol rfl rfl
    (by simpa using hlen)
  rw [hlen] at hdrain
  exact (run_succ_of_next hmore 1024).trans hdrain

/-! ### `writeSome` of all chips -/

theorem seqWriteSomeA_all (cfg : Config) (ws : List Word) (io : Io) (a : Word) :
    seqWriteSomeA cfg allChips io a ws = seqWriteAllA cfg io a ws := by
  induction ws generalizing io a with
  | nil => rfl
  | cons w ws ih => simp only [seqWriteSomeA, seqWriteAllA, cmdWord_all, and_laneMask_all, ih]

theorem seqBypassSome_all (cfg : Config) (ws : List Word) (io : Io) (a : Word) :
    seqBypassSome cfg allChips io a ws = seqBypassAll cfg io a ws := by
  induction ws generalizing io a with
  | nil => rfl
  | cons w ws ih => simp only [seqBypassSome, seqBypassAll, cmdWord_all, and_laneMask_all, ih]

/-- Settles O58: with every chip selected nothing is masked. -/
theorem writeSomeOfAllChipsIsWriteAll : Obligations.WriteSomeOfAllChipsIsWriteAll := by
  intro cfg f io a ws
  cases f with
  | familyA => exact seqWriteSomeA_all cfg ws io a
  | familyB =>
    change seqWriteSomeB cfg allChips io a ws = seqWriteAllB cfg io a ws
    simp only [seqWriteSomeB, seqWriteAllB, cmdWord_all, seqBypassSome_all]

end Sys2Proof.Machine
end

section
/-! The completion poll (40_flash_sequencer.md R150): what one socket answers to a run of status reads, when the words of
the loop settle, and so when the loop ends and when it never does. -/

namespace Sys2Proof

/-- The address of the poll as the chips see it. -/
abbrev Config.pollAddr (cfg : Config) : Word := cfg.busAddr cfg.statusAddr

end Sys2Proof

namespace Sys2Proof.Machine

/-! ### One read cycle of one socket -/

theorem Chip.refreshStatus_of_ne {c : Chip} (h : c.algState ≠ .readingStatus) : c.refreshStatus = c := by
  unfold Chip.refreshStatus
  split
  · exact absurd ‹_› h
  · rfl

theorem Chip.idle_ne_status (c : Chip) : c.idle ≠ .readingStatus := by
  obtain ⟨-, h⟩ | ⟨-, -, h⟩ | ⟨-, -, h⟩ := c.idle_cases
  all_goals simp [h]

theorem Chip.readCycle_of_still {c : Chip} (h : c.fitted = true → c.algState ≠ .readingStatus) (a : Word) :
    c.readCycle a = { c with addr := a, noise := c.noise.advance } := by
  unfold Chip.readCycle Chip.refresh
  cases hf : c.fitted with
  | false => simp
  | true => rw [if_pos rfl, Chip.refreshStatus_of_ne (by exact h hf)]

theorem Chip.readCycle_of_done {c : Chip} (hf : c.fitted = true) (hs : c.algState = .readingStatus)
    (hb : c.busy = .reads 0) (a : Word) :
    c.readCycle a = { c with addr := a, noise := c.noise.advance, algState := c.idle, batchOpen := false } := by
  unfold Chip.readCycle Chip.refresh Chip.refreshStatus
  simp only [hf, hs, hb, if_true]
  rfl

theorem Chip.readCycle_of_busy {c : Chip} {n : Nat} (hf : c.fitted = true) (hs : c.algState = .readingStatus)
    (hb : c.busy = .reads (n + 1)) (a : Word) :
    c.readCycle a = { c with addr := a, noise := c.noise.advance, busy := .reads n, toggle := !c.toggle } := by
  unfold Chip.readCycle Chip.refresh Chip.refreshStatus
  simp only [hf, hs, hb, if_true]

theorem Chip.readCycle_of_forever {c : Chip} (hf : c.fitted = true) (hs : c.algState = .readingStatus)
    (hb : c.busy = .forever) (a : Word) :
    c.readCycle a = { c with addr := a, noise := c.noise.advance, toggle := !c.toggle } := by
  unfold Chip.readCycle Chip.refresh Chip.refreshStatus
  simp only [hf, hs, hb, if_true]

/-- The four things a read cycle can meet (42_chip_model.md R266). -/
theorem Chip.readCycle_cases (c : Chip) :
    (c.fitted = true → c.algState ≠ .readingStatus) ∨
    (c.fitted = true ∧ c.algState = .readingStatus ∧
      (c.busy = .reads 0 ∨ (∃ n, c.busy = .reads (n + 1)) ∨ c.busy = .forever)) := by
  by_cases hf : c.fitted = true
  · by_cases hs : c.algState = .readingStatus
    · refine .inr ⟨hf, hs, ?_⟩
      cases c.busy with
      | reads n => cases n with
        | zero => exact .inl rfl
        | succ n => exact .inr (.inl ⟨n, rfl⟩)
      | forever => exact .inr (.inr rfl)
    · exact .inl fun _ => hs
  · exact .inl fun h => absurd h hf

@[simp] theorem Chip.readCycle_noise (c : Chip) (a : Word) : (c.readCycle a).noise = c.noise.advance := rfl

theorem Noise.advance_length (n : Noise) : n.advance.upcoming.length = n.upcoming.length - 1 := by
  unfold Noise.advance
  cases h : n.upcoming with
  | cons b bs => rfl
  | nil =>
    cases n.restless with
    | false => simp [h]
    | true => rfl

@[simp] theorem Noise.advance_restless (n : Noise) : n.advance.restless = n.restless := by
  unfold Noise.advance
  repeat' split
  all_goals rfl

/-- With no byte pending, the byte of an undriven lane changes exactly where the lane never rests. -/
theorem Noise.advance_now_ne_iff {n : Noise} (h : n.upcoming = []) : n.advance.now ≠ n.now ↔ n.restless = true := by
  unfold Noise.advance
  rw [h]
  cases n.restless with
  | false => simp
  | true => simp

/-! ### A socket that answers every further read alike, or never does -/

/-- What stands on the lane in one read cycle. -/
def Chip.answer (cfg : Config) (a : Word) (c : Chip) : Drive :=
  if c.fitted then (c.readCycle a).driven cfg a else .z

theorem Chip.readByte_eq (cfg : Config) (a : Word) (c : Chip) :
    c.readByte cfg a = (c.readCycle a).sampled (c.answer cfg a) := rfl

/-- At most `n` reads until the socket answers alike or never will: the busy reads of a status state and, where the lane
may be undriven, the bytes pending on it. -/
def Chip.SettlesIn (n : Nat) (c : Chip) : Prop :=
  (c.fitted = true → c.algState = .readingStatus → c.busyReads ≤ n) ∧ (c.Drives ∨ c.noise.upcoming.length ≤ n)

/-- The socket's answers differ for ever: an infinite status, or an undriven lane that never rests. -/
def Chip.Flips (cfg : Config) (a : Word) (c : Chip) : Prop :=
  (c.fitted = true ∧ c.algState = .readingStatus ∧ c.busy = .forever) ∨
  (c.noise.restless = true ∧ ∀ b, c.answer cfg a ≠ .byte b)

theorem Chip.settlesIn_pollBound (c : Chip) : c.SettlesIn c.pollBound :=
  ⟨fun _ _ => le_max_left _ _, .inr (le_max_right _ _)⟩

theorem Chip.SettlesIn.mono {c : Chip} {n m : Nat} (h : c.SettlesIn n) (hnm : n ≤ m) : c.SettlesIn m :=
  ⟨fun hf hs => (h.1 hf hs).trans hnm, h.2.imp_right fun hl => hl.trans hnm⟩

theorem Chip.drives_readCycle {c : Chip} (h : c.Drives) (a : Word) : (c.readCycle a).Drives := by
  obtain ⟨hf, hs, hid⟩ := h
  have hidle : c.idle ≠ .softwareId := by
    obtain ⟨-, hi⟩ | ⟨-, hid', -⟩ | ⟨-, -, hi⟩ := c.idle_cases
    · simp [hi]
    · rw [hid] at hid'
      cases hid'
    · simp [hi]
  obtain hstill | ⟨-, hst, hb | ⟨n, hb⟩ | hb⟩ := c.readCycle_cases
  · rw [Chip.readCycle_of_still hstill]
    exact ⟨hf, hs, hid⟩
  · rw [Chip.readCycle_of_done hf hst hb]
    exact ⟨hf, hidle, hid⟩
  · rw [Chip.readCycle_of_busy hf hst hb]
    exact ⟨hf, hs, hid⟩
  · rw [Chip.readCycle_of_forever hf hst hb]
    exact ⟨hf, hs, hid⟩

theorem Chip.SettlesIn.readCycle {c : Chip} {n : Nat} (h : c.SettlesIn n) (a : Word) : (c.readCycle a).SettlesIn (n - 1) := by
  obtain ⟨hbusy, hnoise⟩ := h
  refine ⟨fun hf' hs' => ?_, hnoise.imp (fun hd => Chip.drives_readCycle hd a) fun hl => ?_⟩
  · obtain hstill | ⟨hf, hst, hb | ⟨k, hb⟩ | hb⟩ := c.readCycle_cases
    · rw [Chip.readCycle_of_still hstill] at hf' hs'
      exact absurd hs' (hstill hf')
    · rw [Chip.readCycle_of_done hf hst hb] at hs'
      exact absurd hs' c.idle_ne_status
    · have hle := hbusy hf hst
      rw [Chip.readCycle_of_busy hf hst hb]
      simp only [Chip.busyReads, hb] at hle ⊢
      omega
    · rw [Chip.readCycle_of_forever hf hst hb]
      simp [Chip.busyReads, hb]
  · rw [Chip.readCycle_noise, Noise.advance_length]
    omega

/-- What a chip drives is a function of its state, its configuration, its content and its toggle. -/
theorem Chip.driven_congr {cfg : Config} {a : Word} {c c' : Chip} (hs : c'.algState = c.algState)
    (hm : c'.mfrId = c.mfrId) (hd : c'.devId = c.devId) (hf : c'.family = c.family) (hc : c'.content = c.content)
    (ht : c'.toggle = c.toggle) : c'.driven cfg a = c.driven cfg a := by
  simp only [Chip.driven, Chip.index, hs, hm, hd, hf, hc, ht]

theorem Chip.answer_of_drives {cfg : Config} {a : Word} {c : Chip} (h : c.Drives) : ∃ b, c.answer cfg a = .byte b := by
  obtain ⟨hf, hs, -⟩ := Chip.drives_readCycle h a
  rw [Chip.answer, if_pos h.1]
  unfold Chip.driven
  split
  · exact absurd ‹_› hs
  · exact ⟨_, rfl⟩
  · exact ⟨_, rfl⟩

/-- A status read answers the toggle bit (42_chip_model.md R290). -/
theorem Chip.answer_of_status {cfg : Config} {a : Word} {c : Chip} (hf : c.fitted = true)
    (hs : (c.readCycle a).algState = .readingStatus) :
    c.answer cfg a = .byte (if (c.readCycle a).toggle then 0x40 else 0x00) := by
  rw [Chip.answer, if_pos hf, Chip.driven, hs]

/-- A settled socket that does not stay in status answers the next read as it answered the last. -/
theorem Chip.answer_readCycle {cfg : Config} {a : Word} {c : Chip} (h : c.SettlesIn 0)
    (hfin : c.fitted = true → c.algState = .readingStatus → c.busy ≠ .forever) :
    (c.readCycle a).answer cfg a = c.answer cfg a := by
  unfold Chip.answer
  rw [Chip.readCycle_fitted]
  obtain hstill | ⟨hf, hst, hb | ⟨k, hb⟩ | hb⟩ := c.readCycle_cases
  · rw [Chip.readCycle_of_still hstill, Chip.readCycle_of_still (c := { c with addr := a, noise := _ }) hstill]
    rfl
  · rw [Chip.readCycle_of_done hf hst hb, Chip.readCycle_of_still (fun _ => c.idle_ne_status)]
    rfl
  · have hle := h.1 hf hst
    simp [Chip.busyReads, hb] at hle
  · exact absurd hb (hfin hf hst)

theorem Chip.sampled_of_not_byte {c : Chip} {d : Drive} (h : ∀ b, d ≠ .byte b) : c.sampled d = c.noise.now := by
  cases d with
  | byte b => exact absurd rfl (h b)
  | z => rfl
  | unspecified => rfl

/-- A socket that is in status after a read was so before it, and its toggle has flipped (42_chip_model.md R266). -/
theorem Chip.toggle_of_status {c : Chip} {a : Word} (hf : c.fitted = true)
    (hs : (c.readCycle a).algState = .readingStatus) :
    c.algState = .readingStatus ∧ (c.readCycle a).toggle = !c.toggle := by
  obtain hstill | ⟨-, hst, hb | ⟨k, hb⟩ | hb⟩ := c.readCycle_cases
  · rw [Chip.readCycle_of_still hstill] at hs
    exact absurd hs (hstill hf)
  · rw [Chip.readCycle_of_done hf hst hb] at hs
    exact absurd hs c.idle_ne_status
  · rw [Chip.readCycle_of_busy hf hst hb]
    exact ⟨hst, rfl⟩
  · rw [Chip.readCycle_of_forever hf hst hb]
    exact ⟨hst, rfl⟩

/-- Two status reads in a row differ. -/
theorem Chip.readByte_ne_of_status {cfg : Config} {a : Word} {c : Chip} (hf : c.fitted = true)
    (hs : ((c.readCycle a).readCycle a).algState = .readingStatus) :
    (c.readCycle a).readByte cfg a ≠ c.readByte cfg a := by
  have hf' : (c.readCycle a).fitted = true := by rw [Chip.readCycle_fitted, hf]
  obtain ⟨hs', htoggle⟩ := Chip.toggle_of_status hf' hs
  rw [Chip.readByte_eq, Chip.readByte_eq, Chip.answer_of_status hf' hs, Chip.answer_of_status hf hs', htoggle]
  cases (c.readCycle a).toggle with
  | true => simp [Chip.sampled]
  | false => simp [Chip.sampled]

/-- A settled socket answers two reads differently exactly where it does so for ever. -/
theorem Chip.readByte_ne_iff {cfg : Config} {a : Word} {c : Chip} (h : c.SettlesIn 0) :
    (c.readCycle a).readByte cfg a ≠ c.readByte cfg a ↔ c.Flips cfg a := by
  by_cases hfor : c.fitted = true ∧ c.algState = .readingStatus ∧ c.busy = .forever
  · obtain ⟨hf, hst, hb⟩ := hfor
    refine iff_of_true (Chip.readByte_ne_of_status hf ?_) (.inl ⟨hf, hst, hb⟩)
    rw [Chip.readCycle_of_forever hf hst hb, Chip.readCycle_of_forever (by exact hf) (by exact hst) (by exact hb)]
    exact hst
  · have hanswer := Chip.answer_readCycle (cfg := cfg) (a := a) h fun hf hst hb => hfor ⟨hf, hst, hb⟩
    rw [Chip.readByte_eq, Chip.readByte_eq, hanswer]
    by_cases hbyte : ∃ b, c.answer cfg a = .byte b
    · obtain ⟨b, hb⟩ := hbyte
      simp [Chip.Flips, Chip.sampled, hfor, hb]
    · have hno : ∀ b, c.answer cfg a ≠ .byte b := fun b hb => hbyte ⟨b, hb⟩
      have hempty : c.noise.advance.upcoming = [] := by
        have hlen := h.2.resolve_left fun hd => hbyte (Chip.answer_of_drives hd)
        rw [← List.length_eq_zero_iff, Noise.advance_length]
        omega
      rw [Chip.sampled_of_not_byte hno, Chip.sampled_of_not_byte hno, Chip.readCycle_noise, Chip.readCycle_noise,
        Noise.advance_now_ne_iff hempty, Noise.advance_restless]
      simp [Chip.Flips, hfor, hno]

/-- A settled socket goes on flipping, or goes on answering alike. -/
theorem Chip.flips_readCycle {cfg : Config} {a : Word} {c : Chip} (h : c.SettlesIn 0) :
    (c.readCycle a).Flips cfg a ↔ c.Flips cfg a := by
  by_cases hfor : c.fitted = true ∧ c.algState = .readingStatus ∧ c.busy = .forever
  · obtain ⟨hf, hst, hb⟩ := hfor
    refine iff_of_true (.inl ?_) (.inl ⟨hf, hst, hb⟩)
    rw [Chip.readCycle_of_forever hf hst hb]
    exact ⟨hf, hst, hb⟩
  · have hanswer := Chip.answer_readCycle (cfg := cfg) (a := a) h fun hf hst hb => hfor ⟨hf, hst, hb⟩
    have hfor' : ¬((c.readCycle a).fitted = true ∧ (c.readCycle a).algState = .readingStatus ∧
        (c.readCycle a).busy = .forever) := by
      rintro ⟨hf, hst, hb⟩
      rw [Chip.readCycle_fitted] at hf
      obtain ⟨hst', -⟩ := Chip.toggle_of_status hf hst
      cases hb' : c.busy with
      | forever => exact hfor ⟨hf, hst', hb'⟩
      | reads n =>
        cases n with
        | zero =>
          rw [Chip.readCycle_of_done hf hst' hb', hb'] at hb
          cases hb
        | succ n =>
          rw [Chip.readCycle_of_busy hf hst' hb'] at hb
          cases hb
    simp only [Chip.Flips, hfor, hfor', hanswer, Chip.readCycle_noise, Noise.advance_restless]

/-- A socket that settles does not flip. -/
theorem Chip.CanSettle.not_flips {cfg : Config} {a : Word} {c : Chip} (h : c.CanSettle) : ¬c.Flips cfg a := by
  obtain ⟨hrest, hbusy, -⟩ := h
  rintro (⟨-, -, hb⟩ | ⟨hr, -⟩)
  · exact hbusy hb
  · rw [hrest] at hr
    cases hr

theorem Chip.CanSettle.readCycle {c : Chip} (h : c.CanSettle) (a : Word) : (c.readCycle a).CanSettle := by
  obtain ⟨hrest, hbusy, hdraws⟩ := h
  refine ⟨by rw [Chip.readCycle_noise, Noise.advance_restless, hrest], ?_⟩
  obtain hstill | ⟨hf, hst, hb | ⟨k, hb⟩ | hb⟩ := c.readCycle_cases
  · rw [Chip.readCycle_of_still hstill]
    exact ⟨hbusy, hdraws⟩
  · rw [Chip.readCycle_of_done hf hst hb]
    exact ⟨hbusy, hdraws⟩
  · rw [Chip.readCycle_of_busy hf hst hb]
    exact ⟨by simp, hdraws⟩
  · exact absurd hb hbusy

/-! ### The words of the loop -/

/-- One read of the status address. -/
def Io.pollRead (cfg : Config) (io : Io) : Io := (io.memRead cfg cfg.statusAddr).2

/-- The word that read `j`, from 0, of the status address returns. -/
def Io.pollWord (cfg : Config) (io : Io) (j : Nat) : Word := busWord cfg ((Io.pollRead cfg)^[j] io).chips cfg.statusAddr

theorem Io.pollRead_iterate_get (cfg : Config) (io : Io) (j : Nat) (l : Lane) :
    ((Io.pollRead cfg)^[j] io).chips.get l = (fun c : Chip => c.readCycle cfg.pollAddr)^[j] (io.chips.get l) := by
  induction j generalizing io with
  | zero => rfl
  | succ j ih => rw [Function.iterate_succ_apply, ih, Function.iterate_succ_apply, Io.pollRead, Io.memRead_get]

theorem lane_busWord (cfg : Config) (chips : Lanes Chip) (a : Word) (l : Lane) :
    lane (busWord cfg chips a) l = (chips.get l).readByte cfg (cfg.busAddr a) := by
  rw [busWord, lane_wordOf, Lanes.get_map]

theorem Io.pollWord_succ (cfg : Config) (io : Io) (j : Nat) :
    io.pollWord cfg (j + 1) = (Io.pollRead cfg io).pollWord cfg j := rfl

/-- Two words of the loop differ where two bytes of a socket do. -/
theorem Io.pollWord_ne_iff (cfg : Config) (io : Io) (j : Nat) :
    io.pollWord cfg (j + 1) ≠ io.pollWord cfg j ↔
      ∃ l, ((((Io.pollRead cfg)^[j] io).chips.get l).readCycle cfg.pollAddr).readByte cfg cfg.pollAddr ≠
        (((Io.pollRead cfg)^[j] io).chips.get l).readByte cfg cfg.pollAddr := by
  have hlane : ∀ l, lane (io.pollWord cfg (j + 1)) l =
      ((((Io.pollRead cfg)^[j] io).chips.get l).readCycle cfg.pollAddr).readByte cfg cfg.pollAddr := by
    intro l
    rw [Io.pollWord, lane_busWord, Function.iterate_succ_apply', Io.pollRead, Io.memRead_get]
  constructor
  · intro hne
    by_contra hall
    refine hne (word_ext fun l => ?_)
    rw [hlane, Io.pollWord, lane_busWord]
    exact not_not.mp fun h => hall ⟨l, h⟩
  · rintro ⟨l, hl⟩ heq
    rw [← hlane, heq, Io.pollWord, lane_busWord] at hl
    exact hl rfl

/-- Two equal words in a row end the loop, at the first such pair. -/
theorem pollLoop_of_equal {cfg : Config} {io : Io} {j n : Nat} (hj : j < n)
    (heq : io.pollWord cfg (j + 1) = io.pollWord cfg j) :
    ∃ k ≤ j, io.pollWord cfg (k + 1) = io.pollWord cfg k ∧
      pollLoop cfg (io.pollWord cfg 0) (Io.pollRead cfg io) n = some ((Io.pollRead cfg)^[k + 2] io) := by
  induction n generalizing io j with
  | zero => cases hj
  | succ n ih =>
    by_cases h0 : io.pollWord cfg 1 = io.pollWord cfg 0
    · exact ⟨0, Nat.zero_le _, h0, by rw [pollLoop]; exact if_pos h0⟩
    · obtain _ | j := j
      · exact absurd heq h0
      obtain ⟨k, hk, hkeq, hloop⟩ := ih (io := Io.pollRead cfg io) (j := j) (by omega) heq
      refine ⟨k + 1, by omega, hkeq, ?_⟩
      rw [pollLoop]
      exact (if_neg h0).trans hloop

/-- Without two equal words in a row the loop does not end. -/
theorem pollLoop_of_all_differ {cfg : Config} {io : Io} {n : Nat}
    (h : ∀ j < n, io.pollWord cfg (j + 1) ≠ io.pollWord cfg j) :
    pollLoop cfg (io.pollWord cfg 0) (Io.pollRead cfg io) n = none := by
  induction n generalizing io with
  | zero => rfl
  | succ n ih =>
    rw [pollLoop]
    exact (if_neg (h 0 (by omega))).trans (ih (io := Io.pollRead cfg io) fun j hj => h (j + 1) (by omega))

theorem pollNeverEnds_iff {cfg : Config} {io : Io} :
    PollNeverEnds cfg io ↔ ∀ j, io.pollWord cfg (j + 1) ≠ io.pollWord cfg j := by
  constructor
  · intro h j heq
    obtain ⟨k, -, -, hloop⟩ := pollLoop_of_equal (Nat.lt_succ_self j) heq
    have hnone := h (j + 1)
    change pollLoop cfg (io.pollWord cfg 0) (Io.pollRead cfg io) (j + 1) = none at hnone
    rw [hloop] at hnone
    cases hnone
  · exact fun h n => pollLoop_of_all_differ fun j _ => h j

/-! ### When the loop ends -/

theorem Chip.SettlesIn.iterate {c : Chip} {n : Nat} (h : c.SettlesIn n) (a : Word) (j : Nat) :
    ((fun c : Chip => c.readCycle a)^[j] c).SettlesIn (n - j) := by
  induction j with
  | zero => exact h
  | succ j ih =>
    rw [Function.iterate_succ_apply']
    exact ih.readCycle a

theorem Chip.CanSettle.iterate {c : Chip} (h : c.CanSettle) (a : Word) (j : Nat) :
    ((fun c : Chip => c.readCycle a)^[j] c).CanSettle := by
  induction j with
  | zero => exact h
  | succ j ih =>
    rw [Function.iterate_succ_apply']
    exact ih.readCycle a

/-- Over sockets that settle, the words are alike once every socket has settled. -/
theorem Io.pollWord_eq_of_settlesIn {cfg : Config} {io : Io} {n : Nat} (hcan : io.CanSettle)
    (h : ∀ l, (io.chips.get l).SettlesIn n) : io.pollWord cfg (n + 1) = io.pollWord cfg n := by
  refine not_not.mp fun hne => ?_
  obtain ⟨l, hl⟩ := (Io.pollWord_ne_iff cfg io n).mp hne
  rw [Io.pollRead_iterate_get] at hl
  have hsettled := (h l).iterate cfg.pollAddr n
  rw [Nat.sub_self] at hsettled
  exact ((hcan l).iterate cfg.pollAddr n).not_flips ((Chip.readByte_ne_iff hsettled).mp hl)

/-- Once every socket has settled, a socket that flips once flips for ever. -/
theorem Io.pollWord_ne_forever {cfg : Config} {io : Io} {n : Nat} (h : ∀ l, (io.chips.get l).SettlesIn n)
    (hne : io.pollWord cfg (n + 1) ≠ io.pollWord cfg n) (j : Nat) :
    io.pollWord cfg (n + j + 1) ≠ io.pollWord cfg (n + j) := by
  obtain ⟨l, hl⟩ := (Io.pollWord_ne_iff cfg io n).mp hne
  rw [Io.pollRead_iterate_get] at hl
  have hsettled : ∀ i, ((fun c : Chip => c.readCycle cfg.pollAddr)^[n + i] (io.chips.get l)).SettlesIn 0 := by
    intro i
    have := (h l).iterate cfg.pollAddr (n + i)
    rwa [Nat.sub_eq_zero_of_le (Nat.le_add_right n i)] at this
  have hflips : ∀ i, ((fun c : Chip => c.readCycle cfg.pollAddr)^[n + i] (io.chips.get l)).Flips cfg cfg.pollAddr := by
    intro i
    induction i with
    | zero => exact (Chip.readByte_ne_iff (hsettled 0)).mp hl
    | succ i ih =>
      rw [← Nat.add_assoc, Function.iterate_succ_apply']
      exact (Chip.flips_readCycle (hsettled i)).mpr ih
  refine (Io.pollWord_ne_iff cfg io (n + j)).mpr ⟨l, ?_⟩
  rw [Io.pollRead_iterate_get]
  exact (Chip.readByte_ne_iff (hsettled j)).mpr (hflips j)

/-- A bound on every lane is bounded by the greatest of the four. -/
theorem Lanes.get_le_max {f : Chip → Nat} (chips : Lanes Chip) (l : Lane) :
    f (chips.get l) ≤ max (max (f chips.l0) (f chips.l1)) (max (f chips.l2) (f chips.l3)) := by
  fin_cases l
  all_goals simp [Lanes.get]

theorem pollBound_settles (io : Io) (l : Lane) : (io.chips.get l).SettlesIn (pollBound io.chips) :=
  (io.chips.get l).settlesIn_pollBound.mono (Lanes.get_le_max (f := Chip.pollBound) io.chips l)

theorem longestBusy_settles {io : Io} (h : ∀ l, (io.chips.get l).Drives) (l : Lane) :
    (io.chips.get l).SettlesIn (longestBusy io.chips) :=
  ⟨fun _ _ => Lanes.get_le_max (f := Chip.busyReads) io.chips l, .inl (h l)⟩

theorem longestBusy_le_pollBound (chips : Lanes Chip) : longestBusy chips ≤ pollBound chips :=
  max_le_max (max_le_max (le_max_left _ _) (le_max_left _ _)) (max_le_max (le_max_left _ _) (le_max_left _ _))

/-- With no bound on the polls, the poll is a loop run one word past the settling of every socket. -/
theorem waitForCompletion_done {cfg : Config} {io io' : Io} (hnone : cfg.maxPolls = none)
    (h : pollLoop cfg (io.pollWord cfg 0) (Io.pollRead cfg io) (pollBound io.chips + 1) = some io') :
    waitForCompletion cfg io = .done () io' := by
  have h' : pollLoop cfg (io.memRead cfg cfg.statusAddr).1 (io.memRead cfg cfg.statusAddr).2 (pollBound io.chips + 1) =
      some io' := h
  simp only [waitForCompletion, hnone, h']

theorem waitForCompletion_hang {cfg : Config} {io : Io} (hnone : cfg.maxPolls = none)
    (h : pollLoop cfg (io.pollWord cfg 0) (Io.pollRead cfg io) (pollBound io.chips + 1) = none) :
    waitForCompletion cfg io = .hang io := by
  have h' : pollLoop cfg (io.memRead cfg cfg.statusAddr).1 (io.memRead cfg cfg.statusAddr).2 (pollBound io.chips + 1) =
      none := h
  simp only [waitForCompletion, hnone, h']

/-- Two equal words end the poll at the first such pair. -/
theorem waitForCompletion_of_equal {cfg : Config} {io : Io} {j : Nat} (hnone : cfg.maxPolls = none)
    (hj : j ≤ pollBound io.chips) (heq : io.pollWord cfg (j + 1) = io.pollWord cfg j) :
    ∃ k ≤ j, io.pollWord cfg (k + 1) = io.pollWord cfg k ∧
      waitForCompletion cfg io = .done () ((Io.pollRead cfg)^[k + 2] io) := by
  obtain ⟨k, hk, hkeq, hloop⟩ := pollLoop_of_equal (Nat.lt_succ_of_le hj) heq
  exact ⟨k, hk, hkeq, waitForCompletion_done hnone hloop⟩

/-- Settles O52: past the settling of every socket the words are alike for ever or differ for ever. -/
theorem hangExactlyWhenPollNeverEnds : Obligations.HangExactlyWhenPollNeverEnds := by
  intro cfg io hnone
  constructor
  · intro hhang
    have hdiffer : ∀ j ≤ pollBound io.chips, io.pollWord cfg (j + 1) ≠ io.pollWord cfg j := by
      intro j hj heq
      obtain ⟨k, -, -, hdone⟩ := waitForCompletion_of_equal hnone hj heq
      rw [hdone] at hhang
      cases hhang
    refine pollNeverEnds_iff.mpr fun j => ?_
    by_cases hj : j ≤ pollBound io.chips
    · exact hdiffer j hj
    · obtain ⟨i, rfl⟩ := Nat.exists_eq_add_of_le (Nat.le_of_not_le hj)
      exact Io.pollWord_ne_forever (pollBound_settles io) (hdiffer _ le_rfl) i
  · exact fun hnever => waitForCompletion_hang hnone (hnever _)

/-- The two reads that answered alike leave no chip in status. -/
theorem Io.pollRead_no_status {cfg : Config} {io : Io} {k : Nat} (h : io.pollWord cfg (k + 1) = io.pollWord cfg k)
    {l : Lane} (hf : (io.chips.get l).fitted = true) :
    (((Io.pollRead cfg)^[k + 2] io).chips.get l).algState ≠ .readingStatus := by
  intro hs
  rw [Function.iterate_succ_apply', Function.iterate_succ_apply', Io.pollRead, Io.memRead_get, Io.pollRead,
    Io.memRead_get] at hs
  have hf' : (((Io.pollRead cfg)^[k] io).chips.get l).fitted = true := by
    rw [Io.pollRead_iterate_get]
    clear h hs
    induction k with
    | zero => exact hf
    | succ k ih => rwa [Function.iterate_succ_apply', Chip.readCycle_fitted]
  exact (Io.pollWord_ne_iff cfg io k).mpr ⟨l, Chip.readByte_ne_of_status hf' hs⟩ h

/-- Settles O51: once every socket has settled two words are alike, and then no chip is in status. -/
theorem pollEndsWithEveryChipIdle : Obligations.PollEndsWithEveryChipIdle := by
  intro cfg io hnone hcan
  have hends : ∃ k ≤ pollBound io.chips, ((∀ l, (io.chips.get l).Drives) → k ≤ longestBusy io.chips) ∧
      io.pollWord cfg (k + 1) = io.pollWord cfg k ∧
      waitForCompletion cfg io = .done () ((Io.pollRead cfg)^[k + 2] io) := by
    by_cases hdrives : ∀ l, (io.chips.get l).Drives
    · obtain ⟨k, hk, hkeq, hdone⟩ := waitForCompletion_of_equal hnone (longestBusy_le_pollBound io.chips)
        (Io.pollWord_eq_of_settlesIn (cfg := cfg) hcan (longestBusy_settles hdrives))
      exact ⟨k, hk.trans (longestBusy_le_pollBound _), fun _ => hk, hkeq, hdone⟩
    · obtain ⟨k, hk, hkeq, hdone⟩ := waitForCompletion_of_equal hnone le_rfl
        (Io.pollWord_eq_of_settlesIn (cfg := cfg) hcan (pollBound_settles io))
      exact ⟨k, hk, fun h => absurd h hdrives, hkeq, hdone⟩
  obtain ⟨k, hbound, hbusy, hkeq, hdone⟩ := hends
  exact ⟨k + 2, by omega, by omega, fun h => Nat.add_le_add_right (hbusy h) 2, hdone,
    fun l hf => Io.pollRead_no_status hkeq hf⟩

end Sys2Proof.Machine
end

section
/-! What every operation of the sequencer keeps, told from the cycles it is made of; with it, which operations end and
what a hang leaves, and so the three instructions that call the sequencer and reply when it is done. -/

namespace Sys2Proof.Machine

/-! ### The cycles of the sequencer's operations -/

/-- The write cycles of the masked operations, but for their data words: the keys, and the command words. -/
inductive CommandWrite (cfg : Config) (f : Family) (m : Mask) : Word → Word → Prop
  | key1 : CommandWrite cfg f m (cfg.ua1 f) (cfg.key1 &&& laneMask m)
  | key2 : CommandWrite cfg f m (cfg.ua2 f) (cfg.key2 &&& laneMask m)
  | command {b : Byte} (hb : b ∈ ([0x80, 0x10, 0x30, 0xA0, 0x20, 0x90, 0x00] : List Byte)) (a : Word) :
    CommandWrite cfg f m a (cmdWord b m)

/-- What is so of the interfaces an operation ends with, and of those it hangs with; and what follows from a timeout. -/
def SeqResult.EndsWith {α : Type} (P H : Io → Prop) (T : Prop) : SeqResult α → Prop
  | .done _ io => P io
  | .hang io => H io
  | .timeout => T

/-- What the cycles of the masked operations do to a property `P` between cycles, `Q` being what a command leaves, before a
data word at the latest. -/
structure CycleRules (cfg : Config) (f : Family) (m : Mask) (P Q H : Io → Prop) (T : Prop) : Prop where
  command : ∀ {io a d}, CommandWrite cfg f m a d → P io → Q (io.memWrite cfg a d)
  weaken : ∀ {io}, Q io → P io
  data : ∀ {io} (a w : Word), Q io → P (io.memWrite cfg a (w &&& laneMask m))
  poll : ∀ {io}, P io → (waitForCompletion cfg io).EndsWith P H T

section Rules

variable {cfg : Config} {f : Family} {m : Mask} {P Q H : Io → Prop} {T : Prop}

theorem SeqResult.endsWith_holds {α : Type} (r : SeqResult α) : r.EndsWith P P True ↔ r.Holds P := by
  cases r <;> rfl

theorem SeqResult.EndsWith.bind {α β : Type} {r : SeqResult α} (h : r.EndsWith P H T) {k : α → Io → SeqResult β}
    (hk : ∀ x io, P io → (k x io).EndsWith P H T) : (r.bind k).EndsWith P H T := by
  cases r with
  | done x io => exact hk x io h
  | hang io => exact h
  | timeout => exact h

theorem CycleRules.unlock (h : CycleRules cfg f m P Q H T) {io : Io} (hio : P io) : Q (seqUnlock cfg f m io) :=
  h.command .key2 (h.weaken (h.command .key1 hio))

theorem CycleRules.erasePrefix (h : CycleRules cfg f m P Q H T) {io : Io} (hio : P io) : P (seqErasePrefix cfg f m io) :=
  h.weaken (h.unlock (h.weaken (h.command (.command (by decide) _) (h.weaken (h.unlock hio)))))

theorem CycleRules.eraseAll (h : CycleRules cfg f m P Q H T) {io : Io} (hio : P io) :
    (seqEraseAll cfg f m io).EndsWith P H T :=
  h.poll (h.weaken (h.command (.command (by decide) _) (h.erasePrefix hio)))

theorem CycleRules.eraseSectorsA (h : CycleRules cfg .familyA m P Q H T) {io : Io} (hio : P io) (a : Word) (n : Nat) :
    (seqEraseSectorsA cfg m io a n).EndsWith P H T := by
  induction n generalizing io a with
  | zero => exact hio
  | succ n ih =>
    exact (h.poll (h.weaken (h.command (.command (by decide) _) (h.erasePrefix hio)))).bind fun _ _ hio => ih hio _

theorem CycleRules.sectorCyclesB (h : CycleRules cfg f m P Q H T) {io : Io} (hio : P io) (a : Word) (n : Nat) :
    P (seqSectorCyclesB cfg m io a n) := by
  have hcycle : ∀ {io : Io} (a : Word), P io → P (io.memWrite cfg a (cmdWord 0x30 m)) :=
    fun a hio => h.weaken (h.command (.command (by decide) a) hio)
  induction n generalizing io a with
  | zero => exact hio
  | succ n ih =>
    apply ih
    split
    · exact hcycle _ (hcycle _ (hcycle _ (hcycle _ hio)))
    · exact hcycle _ hio

theorem CycleRules.eraseSectors (h : CycleRules cfg f m P Q H T) {io : Io} (hio : P io) (address length : Word) :
    (seqEraseSectors cfg f m io address length).EndsWith P H T := by
  unfold seqEraseSectors
  split
  · exact hio
  · refine SeqResult.EndsWith.bind ?_ fun _ _ hio => hio
    cases f with
    | familyA => exact h.eraseSectorsA hio _ _
    | familyB => exact h.poll (h.sectorCyclesB (h.erasePrefix hio) _ _)

theorem CycleRules.writeSomeA (h : CycleRules cfg .familyA m P Q H T) (ws : List Word) {io : Io} (hio : P io) (a : Word) :
    (seqWriteSomeA cfg m io a ws).EndsWith P H T := by
  induction ws generalizing io a with
  | nil => exact hio
  | cons w ws ih =>
    exact (h.poll (h.data _ _ (h.command (.command (by decide) _) (h.weaken (h.unlock hio))))).bind
      fun _ _ hio => ih hio _

theorem CycleRules.bypassSome (h : CycleRules cfg f m P Q H T) (ws : List Word) {io : Io} (hio : P io) (a : Word) :
    (seqBypassSome cfg m io a ws).EndsWith P H T := by
  induction ws generalizing io a with
  | nil => exact hio
  | cons w ws ih =>
    exact (h.poll (h.data _ _ (h.command (.command (by decide) _) hio))).bind fun _ _ hio => ih hio _

theorem CycleRules.writeSome (h : CycleRules cfg f m P Q H T) (ws : List Word) {io : Io} (hio : P io) (a : Word) :
    (seqWriteSome cfg f m io a ws).EndsWith P H T := by
  cases f with
  | familyA => exact h.writeSomeA ws hio a
  | familyB =>
    refine (h.bypassSome ws (h.weaken (h.command (.command (by decide) _) (h.weaken (h.unlock hio)))) a).bind ?_
    exact fun _ _ hio => h.weaken (h.command (.command (by decide) _) (h.weaken (h.command (.command (by decide) _) hio)))

theorem CycleRules.writeAll (h : CycleRules cfg f allChips P Q H T) (ws : List Word) {io : Io} (hio : P io) (a : Word) :
    (seqWriteAll cfg f io a ws).EndsWith P H T := by
  rw [← writeSomeOfAllChipsIsWriteAll]
  exact h.writeSome ws hio a

end Rules

/-! ### Operations end where every socket settles -/

/-- The next busy draw of a socket that settles is finite, and so are the draws after it. -/
theorem Chip.CanSettle.draw {c : Chip} (h : c.CanSettle) :
    c.draws.headD (.reads 0) ≠ .forever ∧ ∀ d ∈ c.draws.tail, d ≠ Busy.forever := by
  obtain ⟨-, -, hdraws⟩ := h
  cases hd : c.draws with
  | nil => simp
  | cons d ds =>
    rw [hd] at hdraws
    exact ⟨hdraws d List.mem_cons_self, fun d' hd' => hdraws d' (List.mem_cons_of_mem d hd')⟩

theorem Chip.CanSettle.startBusy {c : Chip} (h : c.CanSettle) : c.startBusy.CanSettle := by
  rw [Chip.startBusy_eq]
  exact ⟨h.1, h.draw⟩

theorem Chip.CanSettle.commit {c : Chip} (h : c.CanSettle) (cfg : Config) (l : Lane) (a : Word) (d : Byte) :
    (c.commit cfg l a d).CanSettle := by
  apply Chip.commit_cases (P := Chip.CanSettle)
  case hProgram => exact fun _ => Chip.CanSettle.startBusy (c := { c with content := _ }) h
  case hChip => exact Chip.CanSettle.startBusy (c := { c with content := _ }) h
  case hSector => exact Chip.CanSettle.startBusy (c := { c with content := _ }) h
  case hMore => exact fun _ _ _ => Chip.CanSettle.startBusy (c := { c with content := _ }) h
  case hAbort => exact ⟨h.1, by simp [Chip.abortStatus, Chip.fallback], h.2.2⟩
  case hBypass => exact fun _ _ => h
  case hReset1 => exact fun _ => h
  all_goals exact h

theorem Io.CanSettle.memWrite {io : Io} (h : io.CanSettle) (cfg : Config) (a d : Word) : (io.memWrite cfg a d).CanSettle := by
  intro l
  rw [Io.memWrite_get, Chip.writeCycle_eq]
  split
  · exact Chip.CanSettle.commit (by exact h l) _ _ _ _
  · exact h l

theorem Io.CanSettle.memRead {io : Io} (h : io.CanSettle) (cfg : Config) (a : Word) : (io.memRead cfg a).2.CanSettle := by
  intro l
  rw [Io.memRead_get]
  exact (h l).readCycle _

/-- Over sockets that settle, and with no bound on the polls, the poll ends, and the sockets go on settling. -/
theorem waitForCompletion_ends {cfg : Config} {io : Io} (hnone : cfg.maxPolls = none) (h : io.CanSettle) :
    (waitForCompletion cfg io).EndsWith Io.CanSettle (fun _ => False) False := by
  obtain ⟨k, -, -, -, hdone, -⟩ := pollEndsWithEveryChipIdle cfg io hnone h
  have hkeeps := waitForCompletion_keeps (fun io a (h : io.CanSettle) => h.memRead cfg a) h
  rw [hdone] at hkeeps ⊢
  exact hkeeps

theorem settleRules {cfg : Config} (hnone : cfg.maxPolls = none) (f : Family) (m : Mask) :
    CycleRules cfg f m Io.CanSettle Io.CanSettle (fun _ => False) False :=
  { command := fun _ hio => hio.memWrite _ _ _
    weaken := id
    data := fun _ _ hio => hio.memWrite _ _ _
    poll := waitForCompletion_ends hnone }

/-- What neither hangs nor runs into a bound has ended. -/
theorem SeqResult.EndsWith.done {α : Type} {P : Io → Prop} {r : SeqResult α} (h : r.EndsWith P (fun _ => False) False) :
    ∃ x io, r = .done x io := by
  cases r with
  | done x io => exact ⟨x, io, rfl⟩
  | hang io => exact h.elim
  | timeout => exact h.elim

/-! ### What a hang leaves -/

@[simp] theorem Io.memWrite_txStream (cfg : Config) (io : Io) (a d : Word) : (io.memWrite cfg a d).txStream = io.txStream := by
  simp [Io.txStream, Io.memWrite, IoEvent.txItem]

@[simp] theorem Io.memRead_txStream (cfg : Config) (io : Io) (a : Word) : (io.memRead cfg a).2.txStream = io.txStream := by
  simp [Io.txStream, Io.memRead, IoEvent.txItem]

theorem Io.tx_txStream (io : Io) (bs : List Byte) : (io.tx bs).txStream = io.txStream ++ bs.map .byte := by
  simp [Io.txStream, Io.tx, Function.comp_def, IoEvent.txItem]

theorem Io.flush_txStream (io : Io) : io.flush.txStream = io.txStream ++ [.flush] := by
  simp [Io.txStream, Io.flush, IoEvent.txItem]

/-- No cycle of the bus replies, and an operation hangs where its poll never ends. -/
theorem hangRules (cfg : Config) (f : Family) (m : Mask) (tx : List TxItem) :
    CycleRules cfg f m (fun io => io.txStream = tx) (fun io => io.txStream = tx)
      (fun io => PollNeverEnds cfg io ∧ io.txStream = tx) True :=
  { command := fun _ hio => by rw [Io.memWrite_txStream, hio]
    weaken := id
    data := fun _ _ hio => by rw [Io.memWrite_txStream, hio]
    poll := fun {io} hio => by
      have hkeeps := waitForCompletion_keeps (cfg := cfg) (P := fun io : Io => io.txStream = tx)
        (fun io a h => by rw [Io.memRead_txStream, h]) hio
      obtain ⟨k, -, hdone⟩ | ⟨hnone, hhang⟩ | ⟨-, htimeout⟩ := waitForCompletion_cases cfg io
      · rw [hdone] at hkeeps ⊢
        exact hkeeps
      · rw [hhang]
        exact ⟨(hangExactlyWhenPollNeverEnds cfg io hnone).mp hhang, hio⟩
      · rw [htimeout]
        trivial }

/-! ### The three instructions that reply when the sequencer is done -/

theorem Io.pollRead_iterate_trace (cfg : Config) (io : Io) (k : Nat) :
    ((Io.pollRead cfg)^[k] io).trace =
      io.trace ++ (List.range k).map (fun j => IoEvent.read cfg.statusAddr (io.pollWord cfg j)) := by
  induction k with
  | zero => simp
  | succ k ih =>
    rw [Function.iterate_succ_apply', List.range_succ, List.map_append, ← List.append_assoc, ← ih]
    rfl

/-- Settles O37: the six cycles and the poll are `seqEraseAll`, and how the poll ends is O51 and O52. -/
theorem eraseChipsRepliesAfterTheErase : Obligations.EraseChipsRepliesAfterTheErase := by
  intro s lm cycles polled
  have hseq : seqEraseAll s.cfg s.family s.chipMask s.io = waitForCompletion s.cfg polled := rfl
  have htrace : polled.trace = s.io.trace ++ cycles.map (fun c => IoEvent.write c.1 c.2) := by
    simp [polled, cycles, Io.memWrite]
  have htx : polled.txStream = s.io.txStream := by simp [polled, cycles]
  refine ⟨fun hsettles => ?settles, fun hnone hnever => ?hangs⟩
  case settles =>
    obtain ⟨hnone, hcan⟩ := hsettles
    have hpolled : polled.CanSettle :=
      (((((hcan.memWrite _ _ _).memWrite _ _ _).memWrite _ _ _).memWrite _ _ _).memWrite _ _ _).memWrite _ _ _
    obtain ⟨k, hk, -, -, hdone, -⟩ := pollEndsWithEveryChipIdle s.cfg polled hnone hpolled
    refine ⟨_, (List.range k).map (polled.pollWord s.cfg), by simpa using hk, ?_, hseq.trans hdone, ?_⟩
    · rw [exec_eraseChips, hseq, hdone]
      rfl
    · rw [List.map_map, ← htrace]
      exact Io.pollRead_iterate_trace s.cfg polled k
  case hangs =>
    have hhang := (hangExactlyWhenPollNeverEnds s.cfg polled hnone).mpr hnever
    refine ⟨?_, htx⟩
    rw [exec_eraseChips, hseq, hhang]
    rfl

/-- A quarter of a multiple of the granule is a multiple of what divides a quarter of the granule. -/
theorem quarter_aligned {granule size n : Nat} (hfour : granule % 4 = 0) (hsize : granule / 4 % size = 0)
    (hn : n % granule = 0) : n / 4 % size = 0 := by
  obtain ⟨q, rfl⟩ := Nat.dvd_of_mod_eq_zero hfour
  obtain ⟨k, rfl⟩ := Nat.dvd_of_mod_eq_zero hn
  rw [Nat.mul_div_cancel_left q (by norm_num)] at hsize
  rw [Nat.mul_assoc, Nat.mul_div_cancel_left _ (by norm_num)]
  exact Nat.mod_eq_zero_of_dvd ((Nat.dvd_of_mod_eq_zero hsize).mul_right k)

/-- A good erase-portion request is aligned for the sequencer, for either family (00_scope.md R9). -/
theorem sharedAddr_aligned {cfg : Config} (hwf : cfg.wf) (f : Family) {x : Word} (hx : x.toNat % cfg.eraseGranule = 0) :
    (sharedAddr x).toNat % sectorSize f = 0 := by
  obtain ⟨-, -, hA, hB, -, -, hfour, -⟩ := hwf
  have hquarter : (sharedAddr x).toNat = x.toNat / 4 := by
    have := x.isLt
    rw [sharedAddr, BitVec.toNat_ofNat]
    omega
  rw [hquarter]
  cases f with
  | familyA => exact quarter_aligned hfour hA hx
  | familyB => exact quarter_aligned hfour hB hx

/-- Settles O28: an aligned erase that ends has erased (O60), and one that hangs has replied nothing. -/
theorem erasePortionErasesAndFinishes : Obligations.ErasePortionErasesAndFinishes := by
  intro b s hwf hcnt hok erase
  have hexec := exec_fieldErasePosLen b s
  rw [if_pos hcnt, if_pos hok, State.erasePortion_eq] at hexec
  obtain ⟨hpos, hlen, -⟩ := (State.eraseRequestOk_iff _).mp hok
  have htake : s.takeEraseByte b = { s with len := (s.takeEraseByte b).len, cnt := 8 } := by
    rw [State.takeEraseByte_eq, hcnt]
    rfl
  rw [htake] at hexec hpos hlen
  refine ⟨fun hsettles => ?settles, fun io hhang => ?hangs⟩
  case settles =>
    obtain ⟨hnone, hcan⟩ := hsettles
    obtain ⟨ok, io, hdone⟩ := ((settleRules hnone s.family s.chipMask).eraseSectors
      (io := (s.io.tx [s.cfg.reply.erasePortionOK]).flush) hcan (sharedAddr s.pos)
      (sharedAddr (s.takeEraseByte b).len)).done
    have htrue : ok = true := by
      cases ok with
      | true => rfl
      | false =>
        exact absurd hdone ((misalignedSectorEraseTouchesNoBus s.cfg s.family s.chipMask _ _ _).2
          (sharedAddr_aligned hwf s.family hpos) (sharedAddr_aligned hwf s.family hlen) io)
    subst htrue
    refine ⟨io, hdone, hexec.trans ?_⟩
    rw [hdone]
    rfl
  case hangs =>
    have hhangs := (hangRules s.cfg s.family s.chipMask _).eraseSectors
      (io := (s.io.tx [s.cfg.reply.erasePortionOK]).flush) rfl (sharedAddr s.pos)
      (sharedAddr (s.takeEraseByte b).len)
    have hhang' : seqEraseSectors s.cfg s.family s.chipMask ((s.io.tx [s.cfg.reply.erasePortionOK]).flush)
        (sharedAddr s.pos) (sharedAddr (s.takeEraseByte b).len) = .hang io := hhang
    rw [hhang'] at hhangs
    obtain ⟨hnever, htx⟩ := hhangs
    refine ⟨hexec.trans ?_, hnever, ?_⟩
    · rw [hhang']
      rfl
    · rw [htx, Io.flush_txStream, Io.tx_txStream, List.append_assoc]
      rfl

theorem State.programChunk_endsWith {s : State} {P Q H : Io → Prop} {T : Prop}
    (h : ∀ m, CycleRules s.cfg s.family m P Q H T) (hio : P s.io) (words : List Word) :
    (s.programChunk words).EndsWith P H T := by
  unfold State.programChunk
  split
  · exact (h allChips).writeAll words hio _
  · exact (h s.chipMask).writeSome words hio _

/-- How a chunk that was read back is judged, written out. -/
theorem State.judge_eq (s : State) (words : List Word) (back : List Word × Io) :
    s.judge words back =
      if failMask s.chipMask back.1 words = 0 then
        { s with cursor := s.cursor + 1, io := back.2.tx [s.cfg.reply.writeOK] }
      else
        { s with control := .waitingForCommand
                 io := back.2.tx [s.cfg.reply.verifyByte (failMask s.chipMask back.1 words)] } := rfl

/-- Settles O34: the body is programmed by `programChunk`, and what follows is `verifyChunk`. -/
theorem lastBodyByteProgramsAndVerifies : Obligations.LastBodyByteProgramsAndVerifies := by
  intro b s bytes hbody hlen program
  have hlong : ¬ (s.body.getD [] ++ [b]).length < 1024 := by simp [hbody, hlen]
  have hexec := exec_chunkBodyByte b s
  rw [if_neg hlong, hbody, Option.getD_some, State.completeBody_eq] at hexec
  have hprogram : s.programChunk (packWords (bytes ++ [b])) = program := rfl
  rw [hprogram] at hexec
  refine ⟨fun hsettles => ?settles, fun io hhang => ?hangs⟩
  case settles =>
    obtain ⟨hnone, hcan⟩ := hsettles
    obtain ⟨_, io, hdone⟩ :=
      (State.programChunk_endsWith (settleRules hnone s.family) hcan (packWords (bytes ++ [b]))).done
    rw [hprogram] at hdone
    rw [hdone] at hexec
    refine ⟨io, hdone, hexec.trans ?_⟩
    change Host.Outcome.next (({ s with body := none, io := io } : State).verifyChunk (packWords (bytes ++ [b]))) = _
    by_cases hverify : s.verify = true
    case neg =>
      rw [State.verifyChunk_of_not_verify (by exact hverify), if_pos (by simpa using hverify)]
      rfl
    case pos =>
      rw [State.verifyChunk_of_verify (by exact hverify), if_neg (by simp [hverify]), State.judge_eq]
      generalize io.burstRead s.cfg (s.cursor * 256) 256 = back
      exact apply_ite Host.Outcome.next _ _ _
  case hangs =>
    have hhangs := State.programChunk_endsWith (fun m => hangRules s.cfg s.family m _) rfl (packWords (bytes ++ [b]))
    rw [hprogram, hhang] at hhangs
    obtain ⟨hnever, htx⟩ := hhangs
    refine ⟨hexec.trans ?_, hnever, htx⟩
    rw [hhang]
    rfl

end Sys2Proof.Machine
end

section
/-! The chips an operation does not mean: those on unselected lanes (40_flash_sequencer.md R155) and those of the other
family (70_reset_and_hazards.md R361). -/

namespace Sys2Proof

/-- Is the byte a key at an address that takes it? -/
def Config.KeyAt (cfg : Config) (g : Family) (l : Lane) (a : Word) (d : Byte) : Prop :=
  (cfg.match1 g a = true ∧ d = cfg.k1 l) ∨ (cfg.match2 g a = true ∧ d = cfg.k2 l)

end Sys2Proof

namespace Sys2Proof.Machine

/-! ### Unselected lanes -/

/-- On an unselected lane every command cycle is the zero byte. -/
theorem CommandWrite.lane_unselected {cfg : Config} {f : Family} {m : Mask} {a d : Word} (h : CommandWrite cfg f m a d)
    {l : Lane} (hl : m.getLsbD l.val = false) : lane d l = 0x00 := by
  cases h with
  | key1 => rw [lane_masked, hl, if_neg Bool.false_ne_true]
  | key2 => rw [lane_masked, hl, if_neg Bool.false_ne_true]
  | command hb a => rw [lane_cmdWord, hl, if_neg Bool.false_ne_true]

/-- A property that no write and no read notices but in the state it speaks of: read mode, and the content. -/
def Chip.Spared (m : Memory) (c : Chip) : Prop := c.InReadMode ∧ c.content = m

theorem Chip.Spared.readCycle {m : Memory} {c : Chip} (h : c.Spared m) (a : Word) : (c.readCycle a).Spared m := by
  obtain ⟨⟨hst, hid, hby⟩, hc⟩ := h
  rw [Chip.readCycle_of_still (fun _ => by rw [hst]; decide)]
  exact ⟨⟨hst, hid, hby⟩, hc⟩

theorem Chip.Spared.writeCycle_zero {cfg : Config} {l : Lane} (hkey : cfg.k1 l ≠ 0x00) {m : Memory} {c : Chip}
    (h : c.Spared m) (a : Word) : (c.writeCycle cfg l a 0x00).Spared m := by
  obtain ⟨⟨hst, hid, hby⟩, hc⟩ := h
  have hidle : c.algState = c.idle := by simp [Chip.idle, hst, hid, hby]
  rw [Chip.writeCycle_eq]
  split
  · rw [Chip.commit_zero hkey (.inl (by exact hst)) (by exact hidle)]
    exact ⟨⟨hst, hid, hby⟩, hc⟩
  · exact ⟨⟨hst, hid, hby⟩, hc⟩

/-- The poll keeps what a read cycle keeps of one socket. -/
theorem waitForCompletion_keeps_lane {cfg : Config} {l : Lane} {P : Chip → Prop}
    (hr : ∀ c a, P c → P (c.readCycle a)) {io : Io} (h : P (io.chips.get l)) :
    (waitForCompletion cfg io).Holds fun io => P (io.chips.get l) :=
  waitForCompletion_keeps (P := fun io => P (io.chips.get l)) (fun io a h => by rw [Io.memRead_get]; exact hr _ _ h) h

/-- A chip in read mode on an unselected lane is spared by every cycle of a masked operation. -/
theorem sparedRules {cfg : Config} {l : Lane} (hkey : cfg.k1 l ≠ 0x00) (f : Family) {m : Mask}
    (hl : m.getLsbD l.val = false) (content : Memory) :
    CycleRules cfg f m (fun io => (io.chips.get l).Spared content) (fun io => (io.chips.get l).Spared content)
      (fun io => (io.chips.get l).Spared content) True :=
  { command := fun hcycle hio => by
      rw [Io.memWrite_get, hcycle.lane_unselected hl]
      exact hio.writeCycle_zero hkey _
    weaken := id
    data := fun a w hio => by
      rw [Io.memWrite_get, lane_masked, hl]
      exact hio.writeCycle_zero hkey _
    poll := fun hio => (SeqResult.endsWith_holds _).mpr (waitForCompletion_keeps_lane (fun _ a h => h.readCycle a) hio) }

/-- Settles O54: each cycle of a masked operation is a read or the zero byte on the unselected lane. -/
theorem maskedOperationsSpareUnselectedChips : Obligations.MaskedOperationsSpareUnselectedChips := by
  intro cfg f m io l a n ws hkey hl hmode spared
  have rules := sparedRules hkey f hl (io.chips.get l).content
  have hio : (io.chips.get l).Spared (io.chips.get l).content := ⟨hmode, rfl⟩
  exact ⟨(SeqResult.endsWith_holds _).mp (rules.eraseAll hio), (SeqResult.endsWith_holds _).mp (rules.eraseSectors hio a n),
    (SeqResult.endsWith_holds _).mp (rules.writeSome ws hio a)⟩

/-! ### The wrong family -/

/-- A chip of family `g` with this content that no unlock pair has reached: in read mode, or, where `keyed` says so, with a
first key taken. -/
structure Chip.Unreached (g : Family) (m : Memory) (keyed : Bool) (c : Chip) : Prop where
  family : c.family = g
  softwareId : c.softwareIdActive = false
  bypass : c.bypassActive = false
  content : c.content = m
  state : c.algState = .reading ∨ (keyed = true ∧ c.fitted = true ∧ c.algState = .unlocking)

theorem Chip.Unreached.idle {g : Family} {m : Memory} {keyed : Bool} {c : Chip} (h : c.Unreached g m keyed) :
    c.idle = .reading := by
  simp [Chip.idle, h.softwareId, h.bypass]

theorem Chip.Unreached.fallback {g : Family} {m : Memory} {keyed : Bool} {c : Chip} (h : c.Unreached g m keyed)
    (keyed' : Bool) : c.fallback.Unreached g m keyed' :=
  ⟨h.family, h.softwareId, h.bypass, h.content, .inl h.idle⟩

/-- A byte that is no key brings an unreached chip back to read mode. -/
theorem Chip.Unreached.commit_of_no_key {cfg : Config} {l : Lane} {g : Family} {m : Memory} {keyed : Bool} {c : Chip}
    (h : c.Unreached g m keyed) {a : Word} {d : Byte} (hno : ¬cfg.KeyAt g l a d) :
    (c.commit cfg l a d).Unreached g m false := by
  obtain hst | ⟨-, -, hst⟩ := h.state
  · rw [Chip.commit_of_base (.inl hst), h.family, if_neg fun hk => hno (.inl hk)]
    split
    · exact ⟨h.family, rfl, h.bypass, h.content, .inl rfl⟩
    · exact h.fallback _
  · rw [Chip.commit_of_unlocking hst, h.family, if_neg fun hk => hno (.inr hk)]
    exact h.fallback _

/-- Any byte leaves a chip in read mode unreached, if keyed. -/
theorem Chip.Unreached.commit {cfg : Config} {l : Lane} {g : Family} {m : Memory} {c : Chip}
    (h : c.Unreached g m false) (hf : c.fitted = true) (a : Word) (d : Byte) : (c.commit cfg l a d).Unreached g m true := by
  obtain hst | ⟨hkeyed, -, -⟩ := h.state
  · rw [Chip.commit_of_base (.inl hst)]
    split
    · exact ⟨h.family, h.softwareId, h.bypass, h.content, .inr ⟨rfl, hf, rfl⟩⟩
    · split
      · exact ⟨h.family, rfl, h.bypass, h.content, .inl rfl⟩
      · exact h.fallback _
  · cases hkeyed

theorem Chip.Unreached.keyed {g : Family} {m : Memory} {c : Chip} (h : c.Unreached g m false) : c.Unreached g m true :=
  ⟨h.family, h.softwareId, h.bypass, h.content, h.state.imp_right fun hk => ⟨rfl, hk.2⟩⟩

theorem Chip.Unreached.readCycle {g : Family} {m : Memory} {keyed : Bool} {c : Chip} (h : c.Unreached g m keyed) (a : Word) :
    (c.readCycle a).Unreached g m keyed := by
  have hne : c.algState ≠ .readingStatus := by
    obtain hst | ⟨-, -, hst⟩ := h.state
    all_goals simp [hst]
  rw [Chip.readCycle_of_still fun _ => hne]
  exact ⟨h.family, h.softwareId, h.bypass, h.content, h.state⟩

/-- A write cycle leaves a chip as unreached as its commit does; an empty socket is in read mode and stays there. -/
theorem Chip.Unreached.writeCycle {cfg : Config} {l : Lane} {g : Family} {m : Memory} {keyed keyed' : Bool} {c : Chip}
    {a : Word} {d : Byte} (h : c.Unreached g m keyed)
    (hcommit : ∀ c : Chip, c.Unreached g m keyed → c.fitted = true → (c.commit cfg l a d).Unreached g m keyed') :
    (c.writeCycle cfg l a d).Unreached g m keyed' := by
  rw [Chip.writeCycle_eq]
  split
  case isTrue hf => exact hcommit _ ⟨h.family, h.softwareId, h.bypass, h.content, h.state⟩ hf
  case isFalse hf =>
    exact ⟨h.family, h.softwareId, h.bypass, h.content, .inl (h.state.resolve_right fun hk => hf hk.2.1)⟩

theorem standard_keys (l : Lane) : Config.standard.k1 l = 0xAA ∧ Config.standard.k2 l = 0x55 := by
  revert l
  decide

/-- Under the default parameters the key cycles of one family are none for the other: FamilyB's unlock addresses are
FamilyA's the other way round (00_scope.md R9). -/
theorem standard_keys_elsewhere {f g : Family} (hne : g ≠ f) (l : Lane) :
    ¬Config.standard.KeyAt g l (Config.standard.busAddr (Config.standard.ua1 f)) 0xAA ∧
      ¬Config.standard.KeyAt g l (Config.standard.busAddr (Config.standard.ua2 f)) 0x55 := by
  obtain ⟨hk1, hk2⟩ := standard_keys l
  simp only [Config.KeyAt, hk1, hk2]
  cases f with
  | familyA =>
    cases g with
    | familyA => exact absurd rfl hne
    | familyB => decide
  | familyB =>
    cases g with
    | familyA => decide
    | familyB => exact absurd rfl hne

/-- No command cycle of one family is a key for a chip of the other, under the default parameters. -/
theorem CommandWrite.no_key {f g : Family} (hne : g ≠ f) {m : Mask} {a d : Word}
    (h : CommandWrite Config.standard f m a d) (l : Lane) :
    ¬Config.standard.KeyAt g l (Config.standard.busAddr a) (lane d l) := by
  obtain ⟨hk1, hk2⟩ := standard_keys l
  have hbyte : ∀ {b : Byte} (a : Word), b ≠ 0xAA → b ≠ 0x55 → ¬Config.standard.KeyAt g l a b := by
    rintro b a h1 h2 (⟨-, hk⟩ | ⟨-, hk⟩)
    · exact h1 (hk.trans hk1)
    · exact h2 (hk.trans hk2)
  cases hl : m.getLsbD l.val with
  | false =>
    rw [h.lane_unselected hl]
    exact hbyte _ (by decide) (by decide)
  | true =>
    cases h with
    | key1 =>
      rw [lane_masked, if_pos hl, show lane Config.standard.key1 l = 0xAA from hk1]
      exact (standard_keys_elsewhere hne l).1
    | key2 =>
      rw [lane_masked, if_pos hl, show lane Config.standard.key2 l = 0x55 from hk2]
      exact (standard_keys_elsewhere hne l).2
    | command hb a =>
      rw [lane_cmdWord, if_pos hl]
      refine hbyte _ ?_ ?_
      all_goals
        rintro rfl
        exact absurd hb (by decide)

/-- Under the default parameters the cycles for one family never unlock a chip of the other; a data word may be a first
key, and the command after it is no second one. -/
theorem wrongFamilyRules {f g : Family} (hne : g ≠ f) (m : Mask) (l : Lane) (content : Memory) :
    CycleRules Config.standard f m (fun io => (io.chips.get l).Unreached g content true)
      (fun io => (io.chips.get l).Unreached g content false) (fun io => (io.chips.get l).Unreached g content true) True :=
  { command := fun hcycle hio => by
      rw [Io.memWrite_get]
      exact hio.writeCycle fun _ hc _ => hc.commit_of_no_key (hcycle.no_key hne l)
    weaken := Chip.Unreached.keyed
    data := fun a w hio => by
      rw [Io.memWrite_get]
      exact hio.writeCycle fun _ hc hf => hc.commit hf _ _
    poll := fun hio => (SeqResult.endsWith_holds _).mpr (waitForCompletion_keeps_lane (fun _ a h => h.readCycle a) hio) }

theorem SeqResult.Holds.imp {α : Type} {P P' : Io → Prop} {r : SeqResult α} (h : r.Holds P) (himp : ∀ io, P io → P' io) :
    r.Holds P' := by
  cases r with
  | done _ io => exact himp io h
  | hang io => exact himp io h
  | timeout => trivial

/-- Settles O59: no cycle unlocks the chip, so none changes its content. -/
theorem wrongFamilyChangesNoContent : Obligations.WrongFamilyChangesNoContent := by
  intro f m io l a n ws hne hmode same
  obtain ⟨hst, hid, hby⟩ := hmode
  have hio : (io.chips.get l).Unreached (io.chips.get l).family (io.chips.get l).content true :=
    ⟨rfl, hid, hby, rfl, .inl hst⟩
  have rules := fun m => wrongFamilyRules hne m l (io.chips.get l).content
  have hsame : ∀ {α : Type} {r : SeqResult α},
      r.EndsWith (fun io' => (io'.chips.get l).Unreached (io.chips.get l).family (io.chips.get l).content true)
        (fun io' => (io'.chips.get l).Unreached (io.chips.get l).family (io.chips.get l).content true) True →
      r.Holds same :=
    fun h => ((SeqResult.endsWith_holds _).mp h).imp fun _ h => h.content
  exact ⟨hsame ((rules m).eraseAll hio), hsame ((rules m).eraseSectors hio a n), hsame ((rules m).writeSome ws hio a),
    hsame ((rules allChips).writeAll ws hio a)⟩

end Sys2Proof.Machine
end

section
/-! What the sequencer's operations do to the chips they mean: a chip of the selected family on a selected lane, cycle by
cycle through the command grammar (42_chip_model.md section 3), and so the effect of `eraseAll`, `writeSome` and `writeAll`
(40_flash_sequencer.md R157). -/

namespace Sys2Proof.Machine

/-! ### A chip in one state of the grammar -/

/-- A chip of family `f` in this state, out of software-ID mode, with this bypass flag and this content. -/
structure Chip.At (f : Family) (st : AlgState) (bypass : Bool) (m : Memory) (c : Chip) : Prop where
  fitted : c.fitted = true
  family : c.family = f
  state : c.algState = st
  softwareId : c.softwareIdActive = false
  bypassActive : c.bypassActive = bypass
  content : c.content = m

/-- The base state outside software-ID mode (10_state.md R48). -/
def baseState (bypass : Bool) : AlgState := if bypass then .unlockBypass else .reading

section Grammar

variable {cfg : Config} {l : Lane} {f : Family} {st st' : AlgState} {bypass bypass' : Bool} {m m' : Memory} {c : Chip}

theorem Chip.Listening.at (h : c.Listening cfg f) : c.At f .reading false c.content := by
  obtain ⟨hf, hfam, ⟨hst, hid, hby⟩, -⟩ := h
  exact ⟨hf, hfam, hst, hid, hby, rfl⟩

theorem Chip.At.inReadMode (h : c.At f .reading false m) : c.InReadMode := ⟨h.state, h.softwareId, h.bypassActive⟩

theorem Chip.At.idle (h : c.At f st bypass m) : c.idle = baseState bypass := by
  simp [Chip.idle, baseState, h.softwareId, h.bypassActive]

/-- A move of the grammar that leaves the flags and the content. -/
theorem Chip.At.move (h : c.At f st bypass m) (st' : AlgState) : ({ c with algState := st' } : Chip).At f st' bypass m :=
  ⟨h.fitted, h.family, rfl, h.softwareId, h.bypassActive, h.content⟩

/-- A write cycle does to a chip what its commit does: the grammar does not read the latches. -/
theorem Chip.At.writeCycle {a : Word} {d : Byte} (h : c.At f st bypass m)
    (hcommit : ∀ c : Chip, c.At f st bypass m → (c.commit cfg l a d).At f st' bypass' m') :
    (c.writeCycle cfg l a d).At f st' bypass' m' := by
  rw [Chip.writeCycle_eq, if_pos h.fitted]
  exact hcommit _ ⟨h.fitted, h.family, h.state, h.softwareId, h.bypassActive, h.content⟩

theorem Chip.At.commit_key1 (h : c.At f .reading false m) {a : Word} (ha : cfg.match1 f a = true) :
    (c.commit cfg l a (cfg.k1 l)).At f .unlocking false m := by
  rw [Chip.commit_of_base (.inl h.state), h.family, if_pos ⟨ha, rfl⟩]
  exact h.move _

theorem Chip.At.commit_key2 (h : c.At f .unlocking false m) {a : Word} (ha : cfg.match2 f a = true) :
    (c.commit cfg l a (cfg.k2 l)).At f .waitingForCommand false m := by
  rw [Chip.commit_of_unlocking h.state, h.family, if_pos ⟨ha, rfl⟩]
  exact h.move _

theorem Chip.At.commit_program (h : c.At f .waitingForCommand false m) {a : Word} (ha : cfg.match1 f a = true) :
    (c.commit cfg l a 0xA0).At f .programmingByte false m := by
  rw [Chip.commit_of_waiting h.state, h.family, if_neg (by simp), if_pos ⟨rfl, ha⟩]
  exact h.move _

theorem Chip.At.commit_eraseSetup (h : c.At f .waitingForCommand false m) {a : Word} (ha : cfg.match1 f a = true) :
    (c.commit cfg l a 0x80).At f .eraseUnlocking1 false m := by
  rw [Chip.commit_of_waiting h.state, h.family, if_neg (by simp), if_neg (by simp), if_pos ⟨rfl, ha⟩]
  exact h.move _

theorem Chip.At.commit_bypassEnter (h : c.At .familyB .waitingForCommand false m) {a : Word}
    (ha : cfg.match1 .familyB a = true) : (c.commit cfg l a 0x20).At .familyB .unlockBypass true m := by
  rw [Chip.commit_of_waiting h.state, h.family, if_neg (by simp), if_neg (by simp), if_neg (by simp),
    if_pos ⟨rfl, ha, rfl⟩]
  exact ⟨h.fitted, h.family, rfl, h.softwareId, rfl, h.content⟩

theorem Chip.At.commit_eraseKey1 (h : c.At f .eraseUnlocking1 false m) {a : Word} (ha : cfg.match1 f a = true) :
    (c.commit cfg l a (cfg.k1 l)).At f .eraseUnlocking2 false m := by
  rw [Chip.commit_of_eraseUnlocking1 h.state, h.family, if_pos ⟨ha, rfl⟩]
  exact h.move _

theorem Chip.At.commit_eraseKey2 (h : c.At f .eraseUnlocking2 false m) {a : Word} (ha : cfg.match2 f a = true) :
    (c.commit cfg l a (cfg.k2 l)).At f .eraseWaitingForCommand false m := by
  rw [Chip.commit_of_eraseUnlocking2 h.state, h.family, if_pos ⟨ha, rfl⟩]
  exact h.move _

theorem Chip.At.commit_eraseChip (h : c.At f .eraseWaitingForCommand false m) {a : Word} (ha : cfg.match1 f a = true) :
    (c.commit cfg l a 0x10).At f .readingStatus false Memory.erased := by
  rw [Chip.commit_of_eraseWaiting h.state, h.family, if_pos ⟨rfl, ha⟩, Chip.eraseChip_eq]
  exact ⟨h.fitted, h.family, rfl, h.softwareId, h.bypassActive, rfl⟩

/-- The data cycle, in bypass mode or out of it (42_chip_model.md R274). -/
theorem Chip.At.commit_data (h : c.At f .programmingByte bypass m) (a : Word) (d : Byte) :
    (c.commit cfg l a d).At f .readingStatus bypass
      (m.write (a.toNat % cfg.cap f) (m.read (a.toNat % cfg.cap f) &&& d)) := by
  rw [Chip.commit_of_programming h.state, Chip.program_eq]
  refine ⟨h.fitted, h.family, rfl, h.softwareId, h.bypassActive, ?_⟩
  simp only [Chip.index, h.family, h.content]

theorem Chip.At.commit_bypassProgram (h : c.At f .unlockBypass true m) (a : Word) :
    (c.commit cfg l a 0xA0).At f .programmingByte true m := by
  rw [Chip.commit_of_bypass h.state, if_pos rfl]
  exact h.move _

theorem Chip.At.commit_bypassReset1 (h : c.At f .unlockBypass true m) (a : Word) :
    (c.commit cfg l a 0x90).At f .bypassReset true m := by
  rw [Chip.commit_of_bypass h.state, if_neg (by decide), if_pos rfl]
  exact h.move _

theorem Chip.At.commit_bypassReset2 (h : c.At f .bypassReset true m) (a : Word) :
    (c.commit cfg l a 0x00).At f .reading false m := by
  rw [Chip.commit_of_bypassReset h.state, if_pos rfl]
  exact ⟨h.fitted, h.family, by simp [Chip.bypassReset2, Chip.fallback, Chip.idle, h.softwareId], h.softwareId, rfl,
    h.content⟩

/-- A read cycle in a state other than status moves nothing of the grammar. -/
theorem Chip.At.readCycle (h : c.At f st bypass m) (hst : st ≠ .readingStatus) (a : Word) :
    (c.readCycle a).At f st bypass m := by
  rw [Chip.readCycle_of_still fun _ => by rwa [h.state]]
  exact ⟨h.fitted, h.family, h.state, h.softwareId, h.bypassActive, h.content⟩

/-- A read cycle in status stays there or ends it. -/
theorem Chip.At.readCycle_status (h : c.At f .readingStatus bypass m) (a : Word) :
    (c.readCycle a).At f .readingStatus bypass m ∨ (c.readCycle a).At f (baseState bypass) bypass m := by
  obtain hstill | ⟨hf, hst, hb | ⟨n, hb⟩ | hb⟩ := c.readCycle_cases
  · exact absurd h.state (hstill h.fitted)
  · rw [Chip.readCycle_of_done hf hst hb]
    exact .inr ⟨h.fitted, h.family, h.idle, h.softwareId, h.bypassActive, h.content⟩
  · rw [Chip.readCycle_of_busy hf hst hb]
    exact .inl ⟨h.fitted, h.family, h.state, h.softwareId, h.bypassActive, h.content⟩
  · rw [Chip.readCycle_of_forever hf hst hb]
    exact .inl ⟨h.fitted, h.family, h.state, h.softwareId, h.bypassActive, h.content⟩

end Grammar

/-! ### The poll and the unlock sequences on one lane -/

theorem baseState_ne_status (bypass : Bool) : baseState bypass ≠ .readingStatus := by
  cases bypass
  all_goals decide

/-- A loop that has ended has seen two equal words. -/
theorem pollLoop_some {cfg : Config} {io io' : Io} {n : Nat}
    (h : pollLoop cfg (io.pollWord cfg 0) (Io.pollRead cfg io) n = some io') :
    ∃ k, io.pollWord cfg (k + 1) = io.pollWord cfg k ∧ io' = (Io.pollRead cfg)^[k + 2] io := by
  by_cases hall : ∀ j < n, io.pollWord cfg (j + 1) ≠ io.pollWord cfg j
  · rw [pollLoop_of_all_differ hall] at h
    cases h
  · push Not at hall
    obtain ⟨j, hj, heq⟩ := hall
    obtain ⟨k, -, hkeq, hloop⟩ := pollLoop_of_equal hj heq
    rw [hloop] at h
    exact ⟨k, hkeq, (Option.some.inj h).symm⟩

/-- A poll that has ended, with a bound or without, has seen two equal words. -/
theorem waitForCompletion_done_inv {cfg : Config} {io io' : Io} (h : waitForCompletion cfg io = .done () io') :
    ∃ k, io.pollWord cfg (k + 1) = io.pollWord cfg k ∧ io' = (Io.pollRead cfg)^[k + 2] io := by
  unfold waitForCompletion at h
  dsimp only at h
  split at h
  · split at h
    · rename_i hloop
      cases h
      exact pollLoop_some hloop
    · cases h
  · cases h
  · split at h
    · rename_i hloop
      cases h
      exact pollLoop_some hloop
    · cases h

section Lane

variable {cfg : Config} {l : Lane} {f : Family} {st : AlgState} {bypass : Bool} {content : Memory} {io io' : Io} {m : Mask}

/-- The poll leaves a chip that is not in status where it was. -/
theorem waitForCompletion_at (hdone : waitForCompletion cfg io = .done () io') (hst : st ≠ .readingStatus)
    (h : (io.chips.get l).At f st bypass content) : (io'.chips.get l).At f st bypass content := by
  have hkeeps := waitForCompletion_keeps_lane (cfg := cfg) (P := Chip.At f st bypass content)
    (fun c a h => h.readCycle hst a) h
  rwa [hdone] at hkeeps

/-- The poll ends the status state of a chip. -/
theorem waitForCompletion_at_status (hdone : waitForCompletion cfg io = .done () io')
    (h : (io.chips.get l).At f .readingStatus bypass content) :
    (io'.chips.get l).At f (baseState bypass) bypass content := by
  have hkeeps := waitForCompletion_keeps_lane (cfg := cfg) (l := l)
    (P := fun c => c.At f .readingStatus bypass content ∨ c.At f (baseState bypass) bypass content)
    (fun c a hc => hc.elim (fun hc => hc.readCycle_status a) fun hc => .inr (hc.readCycle (baseState_ne_status bypass) a))
    (.inl h)
  rw [hdone] at hkeeps
  refine hkeeps.resolve_left fun hstatus => ?_
  obtain ⟨k, heq, rfl⟩ := waitForCompletion_done_inv hdone
  exact Io.pollRead_no_status heq h.fitted hstatus.state

variable (hkeys : cfg.KeysReach) (hm : m.getLsbD l.val = true)

include hm

/-- A masked command on a selected lane is the command. -/
theorem lane_command (b : Byte) : lane (cmdWord b m) l = b := by rw [lane_cmdWord, if_pos hm]

/-- A masked word on a selected lane is the word. -/
theorem lane_selected (w : Word) : lane (w &&& laneMask m) l = lane w l := by rw [lane_masked, if_pos hm]

include hkeys

theorem seqUnlock_at (h : (io.chips.get l).At f .reading false content) :
    ((seqUnlock cfg f m io).chips.get l).At f .waitingForCommand false content := by
  obtain ⟨hmatch, -⟩ := hkeys
  obtain ⟨h1, h2⟩ := hmatch f
  rw [seqUnlock, Io.memWrite_get, Io.memWrite_get, lane_selected hm, lane_selected hm]
  exact (h.writeCycle fun _ hc => hc.commit_key1 h1).writeCycle fun _ hc => hc.commit_key2 h2

/-- The second unlock pair, after the erase set-up (42_chip_model.md R275, R276). -/
theorem seqUnlock_at_erase (h : (io.chips.get l).At f .eraseUnlocking1 false content) :
    ((seqUnlock cfg f m io).chips.get l).At f .eraseWaitingForCommand false content := by
  obtain ⟨hmatch, -⟩ := hkeys
  obtain ⟨h1, h2⟩ := hmatch f
  rw [seqUnlock, Io.memWrite_get, Io.memWrite_get, lane_selected hm, lane_selected hm]
  exact (h.writeCycle fun _ hc => hc.commit_eraseKey1 h1).writeCycle fun _ hc => hc.commit_eraseKey2 h2

theorem seqErasePrefix_at (h : (io.chips.get l).At f .reading false content) :
    ((seqErasePrefix cfg f m io).chips.get l).At f .eraseWaitingForCommand false content := by
  refine seqUnlock_at_erase hkeys hm ?_
  rw [Io.memWrite_get, lane_command hm]
  exact (seqUnlock_at hkeys hm h).writeCycle fun _ hc => hc.commit_eraseSetup (hkeys.1 f).1

end Lane

/-! ### `eraseAll` -/

/-- Settles O53: on a selected lane the six cycles erase the chip and the poll ends its status; another lane is spared. -/
theorem eraseAllErasesSelectedChips : Obligations.EraseAllErasesSelectedChips := by
  intro cfg f m io io' l hkeys hdone hlisten
  cases hm : m.getLsbD l.val with
  | true =>
    have hstart := seqErasePrefix_at hkeys hm hlisten.at
    have herased : (((seqErasePrefix cfg f m io).memWrite cfg (cfg.ua1 f) (cmdWord 0x10 m)).chips.get l).At f
        .readingStatus false Memory.erased := by
      rw [Io.memWrite_get, lane_command hm]
      exact hstart.writeCycle fun _ hc => hc.commit_eraseChip (hkeys.1 f).1
    have hend := waitForCompletion_at_status hdone herased
    refine ⟨hend.inReadMode, fun a => ?_⟩
    rw [hend.content]
    rfl
  | false =>
    have hspared := (maskedOperationsSpareUnselectedChips cfg f m io l 0 0 [] (hkeys.2 l) hm hlisten.2.2.1).1
    rw [hdone] at hspared
    obtain ⟨hmode, hsame⟩ := hspared
    exact ⟨hmode, fun a => by rw [hsame]; rfl⟩

/-! ### `writeSome` and `writeAll` -/

theorem SeqResult.bind_done {α β : Type} {r : SeqResult α} {k : α → Io → SeqResult β} {y : β} {io' : Io}
    (h : r.bind k = .done y io') : ∃ x io, r = .done x io ∧ k x io = .done y io' := by
  cases r with
  | done x io => exact ⟨x, io, rfl, h⟩
  | hang io => cases h
  | timeout => cases h

section Writes

variable {cfg : Config} {l : Lane} {io io' : Io} {m : Mask} (hm : m.getLsbD l.val = true)

include hm

/-- The data cycle of a word and the poll after it, on a selected lane. -/
theorem dataCycle_at {f : Family} {bypass : Bool} {content : Memory} {a w : Word}
    (h : (io.chips.get l).At f .programmingByte bypass content)
    (hdone : waitForCompletion cfg (io.memWrite cfg a (w &&& laneMask m)) = .done () io') :
    (io'.chips.get l).At f (baseState bypass) bypass
      (content.write ((cfg.busAddr a).toNat % cfg.cap f)
        (content.read ((cfg.busAddr a).toNat % cfg.cap f) &&& lane w l)) := by
  refine waitForCompletion_at_status hdone ?_
  rw [Io.memWrite_get, lane_selected hm]
  exact h.writeCycle fun _ hc => hc.commit_data _ _

theorem seqWriteSomeA_at (hkeys : cfg.KeysReach) (ws : List Word) {a : Word} {content : Memory}
    (h : (io.chips.get l).At .familyA .reading false content) (hdone : seqWriteSomeA cfg m io a ws = .done () io') :
    (io'.chips.get l).At .familyA .reading false (programmedBy cfg cfg.capA l content a ws) := by
  induction ws generalizing io a content with
  | nil =>
    cases hdone
    exact h
  | cons w ws ih =>
    obtain ⟨_, io₁, hword, hrest⟩ := SeqResult.bind_done hdone
    have hcommand : (((seqUnlock cfg .familyA m io).memWrite cfg (cfg.ua1 .familyA) (cmdWord 0xA0 m)).chips.get l).At
        .familyA .programmingByte false content := by
      rw [Io.memWrite_get, lane_command hm]
      exact (seqUnlock_at hkeys hm h).writeCycle fun _ hc => hc.commit_program (hkeys.1 .familyA).1
    exact ih (dataCycle_at hm hcommand hword) hrest

theorem seqBypassSome_at (ws : List Word) {a : Word} {content : Memory}
    (h : (io.chips.get l).At .familyB .unlockBypass true content) (hdone : seqBypassSome cfg m io a ws = .done () io') :
    (io'.chips.get l).At .familyB .unlockBypass true (programmedBy cfg cfg.capB l content a ws) := by
  induction ws generalizing io a content with
  | nil =>
    cases hdone
    exact h
  | cons w ws ih =>
    obtain ⟨_, io₁, hword, hrest⟩ := SeqResult.bind_done hdone
    have hcommand : ((io.memWrite cfg 0 (cmdWord 0xA0 m)).chips.get l).At .familyB .programmingByte true content := by
      rw [Io.memWrite_get, lane_command hm]
      exact h.writeCycle fun _ hc => hc.commit_bypassProgram _
    exact ih (dataCycle_at hm hcommand hword) hrest

/-- `writeSome` on a chip of the family in read mode, on a selected lane. -/
theorem seqWriteSome_at (hkeys : cfg.KeysReach) {f : Family} (ws : List Word) {a : Word} {content : Memory}
    (h : (io.chips.get l).At f .reading false content) (hdone : seqWriteSome cfg f m io a ws = .done () io') :
    (io'.chips.get l).At f .reading false (programmedBy cfg (cfg.cap f) l content a ws) := by
  cases f with
  | familyA => exact seqWriteSomeA_at hm hkeys ws h hdone
  | familyB =>
    obtain ⟨_, io₁, hloop, hexit⟩ := SeqResult.bind_done hdone
    cases hexit
    have henter : (((seqUnlock cfg .familyB m io).memWrite cfg (cfg.ua1 .familyB) (cmdWord 0x20 m)).chips.get l).At
        .familyB .unlockBypass true content := by
      rw [Io.memWrite_get, lane_command hm]
      exact (seqUnlock_at hkeys hm h).writeCycle fun _ hc => hc.commit_bypassEnter (hkeys.1 .familyB).1
    rw [Io.memWrite_get, Io.memWrite_get, lane_command hm, lane_command hm]
    exact ((seqBypassSome_at hm ws henter hloop).writeCycle fun _ hc => hc.commit_bypassReset1 _).writeCycle
      fun _ hc => hc.commit_bypassReset2 _

end Writes

theorem getLsbD_allChips (l : Lane) : allChips.getLsbD l.val = true := by
  revert l
  decide

theorem seqWriteAll_at {cfg : Config} {l : Lane} {io io' : Io} (hkeys : cfg.KeysReach) {f : Family} (ws : List Word)
    {a : Word} {content : Memory} (h : (io.chips.get l).At f .reading false content)
    (hdone : seqWriteAll cfg f io a ws = .done () io') :
    (io'.chips.get l).At f .reading false (programmedBy cfg (cfg.cap f) l content a ws) := by
  rw [← writeSomeOfAllChipsIsWriteAll] at hdone
  exact seqWriteSome_at (getLsbD_allChips l) hkeys ws h hdone

/-- Settles O55, by `seqWriteSome_at`, of which `writeAll` is the case of all chips (O58). -/
theorem writesAndEveryWordIn : Obligations.WritesAndEveryWordIn := by
  intro cfg f m io io' l a ws hkeys hlisten hdone
  have hend : (io'.chips.get l).At f .reading false (programmedBy cfg (cfg.cap f) l (io.chips.get l).content a ws) := by
    obtain ⟨hsome, hm⟩ | hall := hdone
    · exact seqWriteSome_at hm hkeys ws hlisten.at hsome
    · exact seqWriteAll_at hkeys ws hlisten.at hall
  exact ⟨hend.inReadMode, hend.content⟩

end Sys2Proof.Machine
end

section
/-! What `eraseSectors` does to a chip that obeys the command grammar, on a selected lane
(40_flash_sequencer.md R147 to R149, R157). -/

namespace Sys2Proof

/-- An address within a capacity reaches the chip as it is (20_memory.md R61, R73). -/
theorem Config.busAddr_mod {cfg : Config} {cap : Nat} (hcap : cap ≤ 2 ^ cfg.addrLines) {a : Word} (ha : a.toNat < cap) :
    (cfg.busAddr a).toNat % cap = a.toNat := by
  rw [Config.busAddr, BitVec.toNat_ofNat, Nat.mod_eq_of_lt (ha.trans_le hcap), Nat.mod_eq_of_lt a.isLt,
    Nat.mod_eq_of_lt ha]

end Sys2Proof

namespace Sys2Proof.Machine

/-! ### Erased ranges of a content -/

/-- `m'` is `m` with the bytes from `lo` to before `hi` erased. -/
def ErasedRange (m m' : Memory) (lo hi : Nat) : Prop :=
  ∀ x, m'.read x = if lo ≤ x ∧ x < hi then 0xFF else m.read x

theorem ErasedRange.empty (m : Memory) (lo : Nat) : ErasedRange m m lo lo := by
  intro x
  rw [if_neg (by omega)]

theorem erasedRange_eraseRange (m : Memory) (lo hi : Nat) : ErasedRange m (m.eraseRange lo hi) lo hi :=
  Memory.read_eraseRange m lo hi

theorem ErasedRange.trans {m m' m'' : Memory} {lo mid hi : Nat} (h : ErasedRange m m' lo mid)
    (h' : ErasedRange m' m'' mid hi) (hlo : lo ≤ mid) (hhi : mid ≤ hi) : ErasedRange m m'' lo hi := by
  intro x
  rw [h' x, h x]
  by_cases h1 : mid ≤ x ∧ x < hi
  · rw [if_pos h1, if_pos (by omega)]
  · rw [if_neg h1]
    by_cases h2 : lo ≤ x ∧ x < mid
    · rw [if_pos h2, if_pos (by omega)]
    · rw [if_neg h2, if_neg (by omega)]

/-- The sector cycle that opens an erase (42_chip_model.md R277). -/
theorem Chip.At.commit_sector {cfg : Config} {l : Lane} {f : Family} {m : Memory} {c : Chip}
    (h : c.At f .eraseWaitingForCommand false m) (a : Word) :
    (c.commit cfg l a 0x30).At f .readingStatus false
        (m.eraseRange (sectorOf f (a.toNat % cfg.cap f)).1 (sectorOf f (a.toNat % cfg.cap f)).2) ∧
      (c.commit cfg l a 0x30).batchOpen = (f == .familyB) := by
  rw [Chip.commit_of_eraseWaiting h.state, if_neg (by simp), if_pos rfl, Chip.eraseSector_eq]
  refine ⟨⟨h.fitted, h.family, rfl, h.softwareId, h.bypassActive, ?_⟩, by simp only [h.family]⟩
  simp only [Chip.eraseSectorOf, Chip.index, h.family, h.content]

/-! ### `eraseSectors`, FamilyA: sector by sector -/

section Erase

variable {cfg : Config} {l : Lane} {io io' : Io} {m : Mask} (hkeys : cfg.KeysReach) (hm : m.getLsbD l.val = true)

include hm

include hkeys in
/-- One sector of FamilyA: the unlock and set-up cycles, the sector cycle and the poll. -/
theorem eraseSectorA_at (hcap : cfg.capA ≤ 2 ^ cfg.addrLines) {a : Word} {content : Memory}
    (haligned : a.toNat % 0x1000 = 0) (ha : a.toNat < cfg.capA)
    (h : (io.chips.get l).At .familyA .reading false content)
    (hdone : waitForCompletion cfg ((seqErasePrefix cfg .familyA m io).memWrite cfg a (cmdWord 0x30 m)) = .done () io') :
    (io'.chips.get l).At .familyA .reading false (content.eraseRange a.toNat (a.toNat + 0x1000)) := by
  refine waitForCompletion_at_status (bypass := false) hdone ?_
  rw [Io.memWrite_get, lane_command hm]
  have hsector := (seqErasePrefix_at hkeys hm h).writeCycle (cfg := cfg) (l := l) (a := cfg.busAddr a) (d := 0x30)
    fun _ hc => (hc.commit_sector _).1
  rwa [Config.busAddr_mod (by exact hcap) (by exact ha), sectorOf_familyA, haligned, Nat.sub_zero] at hsector

include hkeys in
theorem seqEraseSectorsA_at (hcap : cfg.capA ≤ 2 ^ cfg.addrLines) (hlines : cfg.addrLines ≤ 32) (n : Nat) {a : Word}
    {content : Memory} (haligned : a.toNat % 0x1000 = 0) (hfit : a.toNat + n * 0x1000 ≤ cfg.capA)
    (h : (io.chips.get l).At .familyA .reading false content) (hdone : seqEraseSectorsA cfg m io a n = .done () io') :
    ∃ content', (io'.chips.get l).At .familyA .reading false content' ∧
      ErasedRange content content' a.toNat (a.toNat + n * 0x1000) := by
  have hcap32 : cfg.capA ≤ 2 ^ 32 := hcap.trans (Nat.pow_le_pow_right (by norm_num) hlines)
  induction n generalizing io a content with
  | zero =>
    cases hdone
    exact ⟨content, h, by simpa using ErasedRange.empty content a.toNat⟩
  | succ n ih =>
    obtain ⟨_, io₁, hsector, hrest⟩ := SeqResult.bind_done hdone
    have hfirst := eraseSectorA_at hkeys hm hcap haligned (by omega) h hsector
    have hrange := erasedRange_eraseRange content a.toNat (a.toNat + 0x1000)
    obtain rfl | hn := Nat.eq_zero_or_pos n
    · cases hrest
      exact ⟨_, hfirst, by simpa using hrange⟩
    · have hnext : (a + 0x1000).toNat = a.toNat + 0x1000 := by
        rw [BitVec.toNat_add]
        change (a.toNat + 0x1000) % 2 ^ 32 = _
        omega
      obtain ⟨content', hend, herased⟩ := ih (by omega) (by omega) hfirst hrest
      rw [hnext] at herased
      refine ⟨content', hend, ?_⟩
      have hall := hrange.trans herased (by omega) (by omega)
      rwa [show a.toNat + 0x1000 + n * 0x1000 = a.toNat + (n + 1) * 0x1000 by omega] at hall

/-! ### `eraseSectors`, FamilyB: one batch -/

/-- A FamilyB chip in a running erase batch. -/
def Chip.InBatch (m : Memory) (c : Chip) : Prop := c.At .familyB .readingStatus false m ∧ c.batchOpen = true

/-- A FamilyB chip that takes a sector cycle: the first one, or a further one of its batch. -/
def Chip.TakesSector (m : Memory) (c : Chip) : Prop := c.At .familyB .eraseWaitingForCommand false m ∨ c.InBatch m

omit hm in
theorem Chip.InBatch.commit_sector {content : Memory} {c : Chip} (h : c.InBatch content) (a : Word) :
    (c.commit cfg l a 0x30).InBatch (content.eraseRange (sectorOf .familyB (a.toNat % cfg.capB)).1
      (sectorOf .familyB (a.toNat % cfg.capB)).2) := by
  obtain ⟨hat, hbatch⟩ := h
  rw [Chip.commit_of_status hat.state, if_pos ⟨hat.family, hbatch, rfl⟩, Chip.eraseSectorMore_eq]
  refine ⟨⟨hat.fitted, hat.family, hat.state, hat.softwareId, hat.bypassActive, ?_⟩, hbatch⟩
  simp only [Chip.eraseSectorOf, Chip.index, hat.family, hat.content]
  rfl

omit hm in
theorem Chip.TakesSector.commit_sector {content : Memory} {c : Chip} (h : c.TakesSector content) (a : Word) :
    (c.commit cfg l a 0x30).InBatch (content.eraseRange (sectorOf .familyB (a.toNat % cfg.capB)).1
      (sectorOf .familyB (a.toNat % cfg.capB)).2) :=
  h.elim (fun h => h.commit_sector a) fun h => h.commit_sector a

/-- A sector cycle at an address within the capacity. -/
theorem sectorCycle_at (hcap : cfg.capB ≤ 2 ^ cfg.addrLines) {a : Word} (ha : a.toNat < cfg.capB) {content : Memory}
    (h : (io.chips.get l).TakesSector content) :
    ((io.memWrite cfg a (cmdWord 0x30 m)).chips.get l).InBatch
      (content.eraseRange (sectorOf .familyB a.toNat).1 (sectorOf .familyB a.toNat).2) := by
  have hfitted : (io.chips.get l).fitted = true := h.elim (fun h => h.fitted) fun h => h.1.fitted
  rw [Io.memWrite_get, lane_command hm, Chip.writeCycle_eq, if_pos hfitted, ← Config.busAddr_mod hcap ha]
  refine Chip.TakesSector.commit_sector (h.imp (fun h => ?_) fun h => ⟨?_, h.2⟩) _
  · exact ⟨h.fitted, h.family, h.state, h.softwareId, h.bypassActive, h.content⟩
  · exact ⟨h.1.fitted, h.1.family, h.1.state, h.1.softwareId, h.1.bypassActive, h.1.content⟩

/-- The sector cycles of one 64 KB sector (40_flash_sequencer.md R149). -/
def sectorCycles (cfg : Config) (m : Mask) (io : Io) (a : Word) : Io :=
  if a = 0 then
    (((io.memWrite cfg a (cmdWord 0x30 m)).memWrite cfg 0x4000 (cmdWord 0x30 m)).memWrite cfg 0x6000
      (cmdWord 0x30 m)).memWrite cfg 0x8000 (cmdWord 0x30 m)
  else io.memWrite cfg a (cmdWord 0x30 m)

omit hm in
theorem seqSectorCyclesB_succ (a : Word) (n : Nat) :
    seqSectorCyclesB cfg m io a (n + 1) = seqSectorCyclesB cfg m (sectorCycles cfg m io a) (a + 0x10000) n := rfl

/-- One 64 KB sector of a batch; the one at address 0 is the four boot sub-sectors. -/
theorem eraseSectorB_at (hcap : cfg.capB ≤ 2 ^ cfg.addrLines) {a : Word} (haligned : a.toNat % 0x10000 = 0)
    (hfit : a.toNat + 0x10000 ≤ cfg.capB) {content : Memory} (h : (io.chips.get l).TakesSector content) :
    ∃ content', ((sectorCycles cfg m io a).chips.get l).InBatch content' ∧
      ErasedRange content content' a.toNat (a.toNat + 0x10000) := by
  have hfirst := sectorCycle_at hm hcap (a := a) (by omega) h
  by_cases hzero : a = 0
  · subst hzero
    have hbound : 0x10000 ≤ cfg.capB := by simpa using hfit
    have h2 := sectorCycle_at hm hcap (a := 0x4000) (by simp; omega) (.inr hfirst)
    have h3 := sectorCycle_at hm hcap (a := 0x6000) (by simp; omega) (.inr h2)
    have h4 := sectorCycle_at hm hcap (a := 0x8000) (by simp; omega) (.inr h3)
    rw [sectorCycles, if_pos rfl]
    refine ⟨_, h4, ?_⟩
    exact (((erasedRange_eraseRange content 0 0x4000).trans (erasedRange_eraseRange _ 0x4000 0x6000) (by norm_num)
      (by norm_num)).trans (erasedRange_eraseRange _ 0x6000 0x8000) (by norm_num) (by norm_num)).trans
      (erasedRange_eraseRange _ 0x8000 0x10000) (by norm_num) (by norm_num)
  · have hpos : a.toNat ≠ 0 := fun h0 => hzero (BitVec.eq_of_toNat_eq h0)
    rw [sectorOf_familyB_block (by omega), haligned, Nat.sub_zero] at hfirst
    rw [sectorCycles, if_neg hzero]
    exact ⟨_, hfirst, erasedRange_eraseRange _ _ _⟩

theorem seqSectorCyclesB_at (hcap : cfg.capB ≤ 2 ^ cfg.addrLines) (hlines : cfg.addrLines ≤ 32) (n : Nat) {a : Word}
    {content : Memory} (haligned : a.toNat % 0x10000 = 0) (hfit : a.toNat + (n + 1) * 0x10000 ≤ cfg.capB)
    (h : (io.chips.get l).TakesSector content) :
    ∃ content', ((seqSectorCyclesB cfg m io a (n + 1)).chips.get l).InBatch content' ∧
      ErasedRange content content' a.toNat (a.toNat + (n + 1) * 0x10000) := by
  have hcap32 : cfg.capB ≤ 2 ^ 32 := hcap.trans (Nat.pow_le_pow_right (by norm_num) hlines)
  induction n generalizing io a content with
  | zero =>
    rw [seqSectorCyclesB_succ, Nat.zero_add, Nat.one_mul]
    exact eraseSectorB_at hm hcap haligned (by omega) h
  | succ n ih =>
    obtain ⟨content₁, hfirst, hrange⟩ := eraseSectorB_at hm hcap haligned (by omega) h
    have hnext : (a + 0x10000).toNat = a.toNat + 0x10000 := by
      rw [BitVec.toNat_add]
      change (a.toNat + 0x10000) % 2 ^ 32 = _
      omega
    obtain ⟨content', hend, herased⟩ := ih (a := a + 0x10000) (by omega) (by omega) (.inr hfirst)
    rw [hnext] at herased
    rw [seqSectorCyclesB_succ]
    refine ⟨content', hend, ?_⟩
    have hall := hrange.trans herased (by omega) (by omega)
    rwa [show a.toNat + 0x10000 + (n + 1) * 0x10000 = a.toNat + (n + 1 + 1) * 0x10000 by omega] at hall

end Erase

/-- Settles O56: FamilyA by `seqEraseSectorsA_at`; FamilyB by `seqSectorCyclesB_at`, but for an empty range, after which the
chip stands where the set-up left it. -/
theorem eraseSectorsErasesExactlyTheRange : Obligations.EraseSectorsErasesExactlyTheRange := by
  intro cfg f m io io' l address length hkeys _ hcap hlines hfit hlisten hm hdone
  have haligned : address.toNat % sectorSize f = 0 ∧ length.toNat % sectorSize f = 0 := by
    by_contra hbad
    have hrefused := (misalignedSectorEraseTouchesNoBus cfg f m io address length).1 (by tauto)
    rw [hrefused] at hdone
    cases hdone
  obtain ⟨haddress, hlength⟩ := haligned
  cases f with
  | familyA =>
    change address.toNat % 0x1000 = 0 at haddress
    change length.toNat % 0x1000 = 0 at hlength
    rw [seqEraseSectors_familyA haddress hlength] at hdone
    obtain ⟨_, io₁, hloop, hend⟩ := SeqResult.bind_done hdone
    cases hend
    have hwhole : length.toNat / 0x1000 * 0x1000 = length.toNat := by omega
    obtain ⟨content', hat, herased⟩ := seqEraseSectorsA_at hkeys hm hcap hlines _ haddress (by rw [hwhole]; exact hfit)
      hlisten.at hloop
    rw [hwhole] at herased
    rw [hat.content, if_neg (by simp)]
    exact ⟨herased, hat.inReadMode⟩
  | familyB =>
    change address.toNat % 0x10000 = 0 at haddress
    change length.toNat % 0x10000 = 0 at hlength
    rw [seqEraseSectors_familyB haddress hlength] at hdone
    obtain ⟨_, io₁, hpoll, hend⟩ := SeqResult.bind_done hdone
    cases hend
    have hstart := seqErasePrefix_at hkeys hm hlisten.at
    by_cases hzero : length = 0
    · subst hzero
      have hat := waitForCompletion_at hpoll (by decide) hstart
      rw [hat.content, if_pos ⟨rfl, rfl⟩]
      exact ⟨ErasedRange.empty _ address.toNat, hat.state⟩
    · have hne : length.toNat ≠ 0 := fun h0 => hzero (BitVec.eq_of_toNat_eq h0)
      obtain ⟨n, hn⟩ : ∃ n, length.toNat / 0x10000 = n + 1 := Nat.exists_eq_succ_of_ne_zero (by omega)
      have hwhole : (n + 1) * 0x10000 = length.toNat := by omega
      rw [hn] at hpoll
      obtain ⟨content', hbatch, herased⟩ := seqSectorCyclesB_at hm hcap hlines n haddress
        (by rw [hwhole]; exact hfit) (.inl hstart)
      have hat := waitForCompletion_at_status hpoll hbatch.1
      rw [hwhole] at herased
      rw [hat.content, if_neg (fun h => hzero h.2)]
      exact ⟨herased, hat.inReadMode⟩

end Sys2Proof.Machine
end

section
/-! What a read returns: words programmed into erased flash (40_flash_sequencer.md R157), and the identity bytes
(R145). -/

namespace Sys2Proof.Machine

/-! ### Programmed words -/

/-- A word address before the last one of a run does not wrap. -/
theorem toNat_add_one {a : Word} (h : a.toNat + 1 < 2 ^ 32) : (a + 1).toNat = a.toNat + 1 := by
  rw [BitVec.toNat_add]
  change (a.toNat + 1) % 2 ^ 32 = _
  omega

/-- What a run of program cycles within the capacity leaves: each byte and-ed into its own address. -/
theorem read_programmedBy {cfg : Config} {cap : Nat} (hcap : cap ≤ 2 ^ cfg.addrLines) (hcap32 : cap ≤ 2 ^ 32) (l : Lane)
    (ws : List Word) {a : Word} {m : Memory} (hwf : m.wf cap) (hfit : a.toNat + ws.length ≤ cap) (x : Nat) :
    (programmedBy cfg cap l m a ws).read x =
      if a.toNat ≤ x ∧ x < a.toNat + ws.length then m.read x &&& lane (ws.getD (x - a.toNat) 0) l else m.read x := by
  induction ws generalizing a m with
  | nil =>
    rw [List.length_nil, if_neg (by omega)]
    rfl
  | cons w ws ih =>
    rw [List.length_cons] at hfit ⊢
    have ha : a.toNat < cap := by omega
    have hwrite : ∀ x, (m.write a.toNat (m.read a.toNat &&& lane w l)).read x =
        if a.toNat = x then m.read a.toNat &&& lane w l else m.read x := Memory.read_write m hwf.1 _ _
    rw [programmedBy, Config.busAddr_mod hcap ha]
    obtain rfl | hne := eq_or_ne ws []
    · rw [programmedBy, hwrite]
      by_cases hx : a.toNat = x
      · subst hx
        simp
      · rw [if_neg hx, if_neg (by simp; omega)]
    · have hlen : 0 < ws.length := List.length_pos_iff.mpr hne
      have hnext := toNat_add_one (a := a) (by omega)
      rw [ih (Memory.write_wf hwf ha _) (by omega), hwrite, hnext]
      by_cases hx : a.toNat = x
      · subst hx
        rw [if_neg (by omega), if_pos rfl, if_pos (by omega), Nat.sub_self]
        rfl
      · rw [if_neg hx]
        by_cases hin : a.toNat + 1 ≤ x ∧ x < a.toNat + 1 + ws.length
        · rw [if_pos hin, if_pos (by omega), show x - a.toNat = x - (a.toNat + 1) + 1 by omega]
          rfl
        · rw [if_neg hin, if_neg (by omega)]

/-- A chip in read mode answers its content (42_chip_model.md R290). -/
theorem Chip.At.readByte {f : Family} {m : Memory} {c : Chip} (h : c.At f .reading false m) (cfg : Config) (a : Word) :
    c.readByte cfg a = m.read (a.toNat % cfg.cap f) := by
  have hread := h.readCycle (by decide) a
  rw [Chip.readByte_eq, Chip.answer, if_pos h.fitted, Chip.driven, hread.state]
  simp only [Chip.sampled, Chip.index, hread.family, hread.content]

/-- A burst read over chips in read mode that hold these words. -/
theorem burstRead_words {cfg : Config} {f : Family} (hcap : cfg.cap f ≤ 2 ^ cfg.addrLines) (hcap32 : cfg.cap f ≤ 2 ^ 32)
    {content : Lane → Memory} (ws : List Word) {io : Io} {a : Word} (hfit : a.toNat + ws.length ≤ cfg.cap f)
    (hat : ∀ l, (io.chips.get l).At f .reading false (content l))
    (hwords : ∀ l, ∀ i < ws.length, (content l).read (a.toNat + i) = lane (ws.getD i 0) l) :
    (io.burstRead cfg a ws.length).1 = ws := by
  induction ws generalizing io a with
  | nil => rfl
  | cons w ws ih =>
    rw [List.length_cons] at hfit hwords
    have hfirst : (io.memRead cfg a).1 = w := by
      refine word_ext fun l => ?_
      rw [Io.memRead, lane_busWord, (hat l).readByte, Config.busAddr_mod hcap (by omega)]
      exact hwords l 0 (by omega)
    have hrest : ((io.memRead cfg a).2.burstRead cfg (a + 1) ws.length).1 = ws := by
      obtain rfl | hne := eq_or_ne ws []
      · rfl
      · have hlen : 0 < ws.length := List.length_pos_iff.mpr hne
        have hnext := toNat_add_one (a := a) (by omega)
        refine ih (by omega) (fun l => ?_) fun l i hi => ?_
        · rw [Io.memRead_get]
          exact (hat l).readCycle (by decide) _
        · rw [hnext, Nat.add_assoc, Nat.add_comm 1 i]
          exact hwords l (i + 1) (by omega)
    exact congrArg₂ List.cons hfirst hrest

/-- Settles O57: into erased bytes the words are programmed as they are, and the read finds them. -/
theorem writeThenReadReturnsTheWords : Obligations.WriteThenReadReturnsTheWords := by
  intro cfg f io io' a ws hkeys hcap hlines hfit hchips hdone
  have hcap32 : cfg.cap f ≤ 2 ^ 32 := hcap.trans (Nat.pow_le_pow_right (by norm_num) hlines)
  refine burstRead_words hcap hcap32 ws hfit (fun l => seqWriteAll_at hkeys ws (hchips l).1.at hdone) fun l i hi => ?_
  obtain ⟨⟨-, hfamily, -, -, -, -, -, hwf⟩, herased⟩ := hchips l
  rw [hfamily] at hwf
  rw [read_programmedBy hcap hcap32 l ws hwf hfit, if_pos (by omega), herased _ (by omega) (by omega),
    Nat.add_sub_cancel_left]
  exact BitVec.allOnes_and

/-! ### `IDENTIFY` -/

@[simp] theorem Chip.writeCycle_mfrId (cfg : Config) (l : Lane) (c : Chip) (a : Word) (d : Byte) :
    (c.writeCycle cfg l a d).mfrId = c.mfrId := by
  rw [Chip.writeCycle_eq]
  split
  · exact (Chip.commit_frame cfg l _ a d).2.2.1
  · rfl

@[simp] theorem Chip.writeCycle_devId (cfg : Config) (l : Lane) (c : Chip) (a : Word) (d : Byte) :
    (c.writeCycle cfg l a d).devId = c.devId := by
  rw [Chip.writeCycle_eq]
  split
  · exact (Chip.commit_frame cfg l _ a d).2.2.2.1
  · rfl

/-- A chip of family `f` in software-ID mode, with these identity bytes and this content. -/
structure Chip.Identifies (f : Family) (mfr dev : Byte) (m : Memory) (c : Chip) : Prop where
  fitted : c.fitted = true
  family : c.family = f
  state : c.algState = .softwareId
  bypassActive : c.bypassActive = false
  mfrId : c.mfrId = mfr
  devId : c.devId = dev
  content : c.content = m

section Identify

variable {cfg : Config} {l : Lane} {f : Family} {mfr dev : Byte} {m : Memory} {c : Chip}

/-- Software-ID entry (42_chip_model.md R273). -/
theorem Chip.At.commit_softwareId (h : c.At f .waitingForCommand false m) (hmfr : c.mfrId = mfr) (hdev : c.devId = dev)
    {a : Word} (ha : cfg.match1 f a = true) : (c.commit cfg l a 0x90).Identifies f mfr dev m := by
  rw [Chip.commit_of_waiting h.state, h.family, if_pos ⟨rfl, ha⟩]
  exact ⟨h.fitted, h.family, rfl, h.bypassActive, hmfr, hdev, h.content⟩

theorem Chip.At.identifies (h : c.At f .waitingForCommand false m) {a : Word} (ha : cfg.match1 f a = true) :
    (c.writeCycle cfg l a 0x90).Identifies f c.mfrId c.devId m := by
  rw [Chip.writeCycle_eq, if_pos h.fitted]
  refine Chip.At.commit_softwareId ?_ ?_ ?_ ha
  · exact ⟨h.fitted, h.family, h.state, h.softwareId, h.bypassActive, h.content⟩
  all_goals rfl

theorem Chip.Identifies.readCycle (h : c.Identifies f mfr dev m) (a : Word) : (c.readCycle a).Identifies f mfr dev m := by
  rw [Chip.readCycle_of_still fun _ => by rw [h.state]; decide]
  exact ⟨h.fitted, h.family, h.state, h.bypassActive, h.mfrId, h.devId, h.content⟩

theorem Chip.Identifies.readByte_mfr (h : c.Identifies f mfr dev m) : c.readByte cfg mfrAddr = mfr := by
  have hread := h.readCycle mfrAddr
  rw [Chip.readByte_eq, Chip.answer, if_pos h.fitted, Chip.driven, hread.state]
  simp only [if_pos, Chip.sampled, hread.mfrId]

theorem Chip.Identifies.readByte_dev (h : c.Identifies f mfr dev m) (hne : cfg.devAddr f ≠ mfrAddr) :
    c.readByte cfg (cfg.devAddr f) = dev := by
  have hread := h.readCycle (cfg.devAddr f)
  rw [Chip.readByte_eq, Chip.answer, if_pos h.fitted, Chip.driven, hread.state]
  simp only [if_neg hne, hread.family, if_pos, Chip.sampled, hread.devId]

/-- The 0xF0 exit (42_chip_model.md R271). -/
theorem Chip.Identifies.exit (h : c.Identifies f mfr dev m) (hkey : cfg.k1 l ≠ 0xF0) (a : Word) :
    (c.writeCycle cfg l a 0xF0).InReadMode ∧ (c.writeCycle cfg l a 0xF0).content = m := by
  rw [Chip.writeCycle_eq, if_pos h.fitted, Chip.commit_of_base (.inr (by exact h.state)),
    if_neg (fun hk => hkey hk.2.symm), if_pos rfl]
  exact ⟨⟨rfl, rfl, h.bypassActive⟩, h.content⟩

end Identify

theorem standard_keysReach : Config.standard.KeysReach := by
  refine ⟨fun f => ?_, fun l => ?_⟩
  · cases f
    all_goals decide
  · rw [(standard_keys l).1]
    decide

/-- What the identification leaves and answers on a lane with a listening chip. -/
theorem seqIdentify_lane {cfg : Config} (hkeys : cfg.KeysReach) {f : Family} {io : Io} {l : Lane} {m : Memory}
    (hexit : cfg.k1 l ≠ 0xF0) (hdev : cfg.devAddr f ≠ mfrAddr) (hbus : ∀ a, a = mfrAddr ∨ a = cfg.devAddr f → cfg.busAddr a = a)
    (h : (io.chips.get l).At f .reading false m) :
    let entered := (seqUnlock cfg f allChips io).memWrite cfg (cfg.ua1 f) (rep 0x90)
    let read := entered.memRead cfg mfrAddr
    lane read.1 l = (io.chips.get l).mfrId ∧ lane (read.2.memRead cfg (cfg.devAddr f)).1 l = (io.chips.get l).devId ∧
      ((seqIdentify cfg f io).2.chips.get l).InReadMode ∧ ((seqIdentify cfg f io).2.chips.get l).content = m := by
  intro entered read
  have hunlocked := seqUnlock_at hkeys (getLsbD_allChips l) h
  have hentered : (entered.chips.get l).Identifies f (io.chips.get l).mfrId (io.chips.get l).devId m := by
    have hid := hunlocked.identifies (cfg := cfg) (l := l) (hkeys.1 f).1
    have hmfr : ((seqUnlock cfg f allChips io).chips.get l).mfrId = (io.chips.get l).mfrId := by simp [seqUnlock]
    have hdevId : ((seqUnlock cfg f allChips io).chips.get l).devId = (io.chips.get l).devId := by simp [seqUnlock]
    rw [hmfr, hdevId] at hid
    rwa [Io.memWrite_get, lane_rep]
  have hread : (read.2.chips.get l).Identifies f (io.chips.get l).mfrId (io.chips.get l).devId m := by
    rw [Io.memRead_get]
    exact hentered.readCycle _
  refine ⟨?mfr, ?dev, ?exit⟩
  case mfr =>
    change lane (busWord cfg entered.chips mfrAddr) l = _
    rw [lane_busWord, hbus _ (.inl rfl)]
    exact hentered.readByte_mfr
  case dev =>
    change lane (busWord cfg read.2.chips (cfg.devAddr f)) l = _
    rw [lane_busWord, hbus _ (.inr rfl)]
    exact hread.readByte_dev hdev
  case exit =>
    change (((read.2.memRead cfg (cfg.devAddr f)).2.memWrite cfg cfg.idExitAddr (rep 0xF0)).chips.get l).InReadMode ∧
      (((read.2.memRead cfg (cfg.devAddr f)).2.memWrite cfg cfg.idExitAddr (rep 0xF0)).chips.get l).content = m
    rw [Io.memWrite_get, Io.memRead_get, lane_rep]
    exact (hread.readCycle _).exit hexit _

theorem standard_identity_addresses (f : Family) :
    Config.standard.devAddr f ≠ mfrAddr ∧
      ∀ a, a = mfrAddr ∨ a = Config.standard.devAddr f → Config.standard.busAddr a = a := by
  refine ⟨?_, ?_⟩
  · cases f
    all_goals decide
  · rintro a (rfl | rfl)
    · decide
    · cases f
      all_goals decide

/-- No cycle of the identification replies. -/
theorem seqIdentify_txStream (cfg : Config) (f : Family) (io : Io) : (seqIdentify cfg f io).2.txStream = io.txStream := by
  simp [seqIdentify, seqUnlock]

/-- Settles O19: lane by lane by `seqIdentify_lane`, and the reply is `identityBytes` of the two words. -/
theorem identifyAnswersTheChipsOwnBytes : Obligations.IdentifyAnswersTheChipsOwnBytes := by
  intro s hcfg hlisten
  obtain ⟨hdev, hbus⟩ := standard_identity_addresses s.family
  rw [← hcfg] at hdev hbus
  have hkeys : s.cfg.KeysReach := by
    rw [hcfg]
    exact standard_keysReach
  have hlane := fun l => seqIdentify_lane (io := s.io.tx [s.cfg.reply.ok]) hkeys
    (by rw [hcfg, (standard_keys l).1]; decide) hdev hbus (hlisten l).at
  have hbytes : (seqIdentify s.cfg s.family (s.io.tx [s.cfg.reply.ok])).1 =
      [s.io.chips.l3.mfrId, s.io.chips.l3.devId, s.io.chips.l2.mfrId, s.io.chips.l2.devId,
        s.io.chips.l1.mfrId, s.io.chips.l1.devId, s.io.chips.l0.mfrId, s.io.chips.l0.devId] := by
    rw [seqIdentify, identityBytes, (hlane 3).1, (hlane 3).2.1, (hlane 2).1, (hlane 2).2.1, (hlane 1).1, (hlane 1).2.1,
      (hlane 0).1, (hlane 0).2.1]
    rfl
  have htx := seqIdentify_txStream s.cfg s.family (s.io.tx [s.cfg.reply.ok])
  have hend := fun l => (hlane l).2.2
  rw [exec_identify]
  generalize seqIdentify s.cfg s.family (s.io.tx [s.cfg.reply.ok]) = r at hbytes htx hend
  refine ⟨_, rfl, ?_, hend⟩
  rw [State.finish_eq, hbytes]
  change (r.2.tx _).txStream = _
  rw [Io.tx_txStream, htx, Io.tx_txStream, hcfg, List.append_assoc]
  rfl

end Sys2Proof.Machine
end
